-- ==== Sys2Proof/Word.lean ====
section
/-! DEFINITION. The number types of the block: bytes, 16-bit fields, the 11-bit event word, and the
exact values of the output record (R6, R60, R154). -/

namespace Sys2Proof

/-- R6: an unsigned 8-bit value. -/
abbrev Byte := BitVec 8

/-- R6: an unsigned 16-bit value. Every multi-byte field of the wire format is one (R42). -/
abbrev U16 := BitVec 16

/-- R60: the input event word; bit 10 `stop`, bit 9 `eos`, bit 8 `valid`, bits 7..0 `byte`. -/
abbrev EventWord := BitVec 11

/-- R154: an exact angle, carried as its exact rational coefficient of PI: the angle is
`piCoeff * PI` radians. -/
structure Angle where
  piCoeff : Rat
deriving DecidableEq, Repr, Inhabited

/-- An exact real `rational + piCoeff * PI`. PI is irrational, so two of these are equal exactly when
the reals they stand for are equal: a function of an `Exact` is a function of the real value (R155). -/
structure Exact where
  rational : Rat
  piCoeff : Rat
deriving DecidableEq, Repr, Inhabited

/-- The exact value of an angle field (R154). -/
def Exact.ofAngle (a : Angle) : Exact := ⟨0, a.piCoeff⟩

/-- The exact value of a range field (R154). -/
def Exact.ofRat (r : Rat) : Exact := ⟨r, 0⟩

/-- DESIGN CHOICE (log entry 4): the container of a delivered number. R155 leaves the format open; its
default, IEEE 754 binary64, has 64 bits. -/
abbrev Format := BitVec 64

end Sys2Proof
end

