-- ==== Sys2Proof/Config.lean ====
section
/-! DEFINITION. The parameters of R5, each a named constant with the value of this hardware, and the one
free function `rnd`. None of them is state and none changes during a run (R34, D22). The one table of
R5, CRC_TABLE, is held as the ROM of State (log entry 3). -/

namespace Sys2Proof.Config

/-- R5, R62: the synchronization byte. -/
def syncByte : Byte := 0x54

/-- R5: minimum RawFrame length in bytes. -/
def minLen : Nat := 14

/-- R5: buffer offset of the first point stride. -/
def pointBase : Nat := 6

/-- R5: point iteration stops before offset `L - tailGuard`. -/
def tailGuard : Nat := 8

/-- R5: bytes per point stride. -/
def stride : Nat := 3

/-- R5, R66, C7: offset of the intensity byte from the stride start, preserved as observed. -/
def intensityOfs : Nat := 3

/-- R5: one full turn in hundredths of a degree. -/
def wrapCdeg : Nat := 36000

/-- R5: hundredths of a degree per degree. -/
def cdegPerDeg : Nat := 100

/-- R5: millimetres per metre. -/
def mmPerM : Nat := 1000

/-- R5: initial CRC accumulator. -/
def crcInit : Byte := 0

/-- R5, R22, D7: the buffer has no maximum length on this hardware. -/
def bufMax : Option Nat := none

/-- R5, D3: what a timeout does. `surface` is not specified by the spec (U2). -/
inductive TimeoutPolicy where
  | retry
deriving DecidableEq, Repr

/-- R5, D3. -/
def timeoutPolicy : TimeoutPolicy := .retry

/-- R5, D6: when a stop request takes effect. `deferred` is not what this hardware does (R175). -/
inductive StopPolicy where
  | immediate
deriving DecidableEq, Repr

/-- R5, D6. -/
def stopPolicy : StopPolicy := .immediate

/-- R155, D9, U4: rounding from the exact value to the delivered format, an OPEN parameter of which the
spec assumes only that it is a function of the exact value. A free function: it has no body that a
proof could use (log entry 4). -/
opaque rnd : Exact → Format

end Sys2Proof.Config
end

