-- ==== Sys2Proof/Syntax.lean ====
section
/-! DEFINITION. The records of the wire format and of the outputs, and the instructions: one constructor
per row of spec/opcode_table.json, in the table's order. "Instruction" is R3's mapping of the word. -/

namespace Sys2Proof

/-- R21: the synchronizer's two states. -/
inductive SyncState where
  | seeking
  | accumulating
deriving DecidableEq, Repr

/-- R13, R66: a point, distance in millimetres. -/
structure Point where
  distance : U16
  intensity : Byte
deriving DecidableEq, Repr, Inhabited

/-- R77: the DecodedFrame. -/
structure DecodedFrame where
  header : Byte
  verlen : Byte
  speed : U16
  startAngle : U16
  endAngle : U16
  timestamp : U16
  crc : Byte
  points : List Point
deriving DecidableEq, Repr, Inhabited

/-- R72: the NormalizedScan, exact layer (R154): exactly these seven fields. -/
structure NormalizedScan where
  angleMin : Angle
  angleMax : Angle
  angleIncrement : Angle
  ranges : List Rat
  intensities : List Byte
  rangeMin : Rat
  rangeMax : Rat
deriving DecidableEq, Repr, Inhabited

/-- R63: the fields of a RawFrame in wire order; `body` is the point region, offsets 6 .. L-6. -/
structure RawFrame where
  header : Byte
  verlen : Byte
  speed : U16
  startAngle : U16
  body : List Byte
  endAngle : U16
  timestamp : U16
  crc : Byte
deriving DecidableEq, Repr, Inhabited

/-- One constructor per row of the table. An operand is a field of the row's encoding (the byte of a
DATA event, the fields of a frame) or the payload of an outcome label (R73). -/
inductive Instr where
  -- EVENT rows (R61, R76)
  | halted
  | stop
  | eos
  | idle
  | syncStart
  | syncEmit
  | syncDiscard
  | dataSkip (b : Byte)
  | dataAppend (b : Byte)
  -- SIGNAL row (R216)
  | reset
  -- INTERNAL rows
  | validate
  | decode
  | emptyGuard
  | assemble
  | publish
  -- RAWFRAME rows (R63, R64)
  | frame (f : RawFrame)
  | frame14 (verlen : Byte) (speed startAngle : U16) (x6 x7 x8 : Byte) (endAngle timestamp : U16) (crc : Byte)
  -- FIELD rows (R126 to R133)
  | decodeHeader
  | decodeVerlen
  | decodeSpeed
  | decodeStartAngle
  | decodeEndAngle
  | decodeTimestamp
  | decodeCrc
  | decodePoints
  -- OUTPUT rows (R146 to R153)
  | assembleAngleMin
  | assembleAngleMax
  | assembleWrap
  | assembleAngleIncrement
  | assembleRanges
  | assembleIntensities
  | assembleRangeMin
  | assembleRangeMax
  -- OUTCOME rows (R73)
  | oIdle
  | oSkip (b : Byte)
  | oStart
  | oAppend (b : Byte)
  | oShort (len : Nat)
  | oCrcReject (len : Nat) (computed carried : Byte)
  | oEmpty (len : Nat)
  | oPublish (frame : DecodedFrame) (scan : NormalizedScan)
  | oEos (len : Nat)
  | oStop (len : Nat)
  | oHalted
  | oOverflow
deriving DecidableEq, Repr

end Sys2Proof
end

