-- ==== Sys2Proof/Machine/State.lean ====
section
/-! DEFINITION. The state of the machine, its outputs, and the reasons a step can stop (R20, R25, R170). -/

namespace Sys2Proof.Machine

/-- R73: the outcome label. There is no constructor for the reserved codes 12 to 15 (U13). -/
inductive Label where
  | idle
  | skip (b : Byte)
  | start
  | append (b : Byte)
  | short (len : Nat)
  | crcReject (len : Nat) (computed carried : Byte)
  | empty (len : Nat)
  | publish (frame : DecodedFrame) (scan : NormalizedScan)
  | eos (len : Nat)
  | stop (len : Nat)
  | halted
  | overflow
deriving DecidableEq, Repr

/-- R155: what the scan sink receives: `rnd` of each real or rational field, the intensities as they
are. -/
structure DeliveredScan where
  angleMin : Format
  angleMax : Format
  angleIncrement : Format
  ranges : List Format
  intensities : List Byte
  rangeMin : Format
  rangeMax : Format
deriving DecidableEq, Repr

/-- R170: the output of a step, `(outcome, scan, eos_out)`, with the delivered form of the scan beside
it (R155). R215: none of them after reset. -/
structure Output where
  label : Option Label := none
  scan : Option NormalizedScan := none
  delivered : Option DeliveredScan := none
  eosOut : Bool := false
deriving DecidableEq, Repr

/-- R25: the transient datapath registers, in the order of its table, and VALIDATE's result (log
entry 14). `none` is the spec's "holds no value" (R33, R215; log entry 5). -/
structure Datapath where
  cand : Option (List Byte) := none
  crcAcc : Option Byte := none
  verdict : Option Bool := none
  header : Option Byte := none
  verlen : Option Byte := none
  speed : Option U16 := none
  startAngle : Option U16 := none
  endAngle : Option U16 := none
  timestamp : Option U16 := none
  crc : Option Byte := none
  points : Option (List Point) := none
  endAdj : Option Nat := none
  span : Option Int := none
  angleMin : Option Angle := none
  angleMax : Option Angle := none
  angleIncrement : Option Angle := none
  ranges : Option (List Rat) := none
  intensities : Option (List Byte) := none
  rangeMin : Option Rat := none
  rangeMax : Option Rat := none
deriving DecidableEq, Repr

/-- R25, R33: every transient without a value. -/
def Datapath.empty : Datapath := {}

/-- R60: what the environment presents in one step. -/
structure Stimulus where
  rst : Bool
  ev : EventWord
deriving DecidableEq, Repr

/-- The state. `st`, `buf`, `halted` are the spec's persistent state (R20); `rom` is the CRC table ROM
(R30, R47); `dp` the transients (R25), empty between steps; `input` what the environment has yet to
present (log entry 2); `out` the output of the last step (R170, log entry 6). -/
structure State where
  st : SyncState
  buf : List Byte
  halted : Bool
  rom : Memory
  dp : Datapath
  input : List Stimulus
  out : Output
deriving DecidableEq, Repr

/-- Why the machine stops with a fault. -/
inductive Fault where
  /-- R208: the O_OVERFLOW of a bounded buffer; raised by O_OVERFLOW and by DATA.append at a finite
  `Config.bufMax`. Safe: the model stops where the spec gives no behaviour. -/
  | bufferOverflow
deriving DecidableEq, Repr

/-- Why a meaning is refused. -/
inductive Refusal where
  /-- An instruction without a meaning, by its mnemonic. Raised by no arm of this model. Safe. -/
  | notModelled (mnemonic : String)
  /-- R171: an event row outside its `state_condition`: no rule of the spec applies (log entry 1). Raised
  by the EVENT rows; never by a step. Safe: the model stops. -/
  | notSelected
  /-- R33: a transient register is read that holds no value. Raised by the INTERNAL, FIELD and OUTPUT
  rows; never by a step. Safe: the model stops. -/
  | transientNoValue
  /-- R125, D18, U14: DECODE of fewer than 14 bytes. Raised by DECODE and its FIELD rows; never by a
  step. Safe: the model stops. -/
  | decodeTooShort
  /-- R145, D18, U1: ASSEMBLE of no points, or the minimum or maximum of no ranges. Raised by ASSEMBLE,
  angle_increment, range_min, range_max; never by a step. Safe: the model stops. -/
  | assembleEmpty
deriving DecidableEq, Repr

/-- R33, R215. The ROM lists nothing, so it reads as the default table (log entry 3). -/
def State.reset : State :=
  { st := .seeking, buf := [], halted := false, rom := [], dp := .empty, input := [], out := {} }

end Sys2Proof.Machine
end

