-- ==== Sys2Proof/Machine/Flags.lean ====
section
/-! DEFINITION. The block has no flags or condition codes (R26). What a step reports instead is the outcome
label; here are its 4-bit codes (R73) and the fault classes with theirs (R190). -/

namespace Sys2Proof.Machine

/-- R73: the code column. -/
def Label.code : Label → BitVec 4
  | .idle => 0
  | .skip _ => 1
  | .start => 2
  | .append _ => 3
  | .short _ => 4
  | .crcReject _ _ _ => 5
  | .empty _ => 6
  | .publish _ _ => 7
  | .eos _ => 8
  | .stop _ => 9
  | .halted => 10
  | .overflow => 11

/-- R190: the fault classes; there is no other. -/
inductive FaultClass where
  | timeout
  | framing
  | crc
  | empty
deriving DecidableEq, Repr

/-- R190, D14: the numeric codes. -/
def FaultClass.code : FaultClass → BitVec 4
  | .timeout => 0
  | .framing => 4
  | .crc => 5
  | .empty => 6

/-- R190, R197: the fault class a step raised, read from its label. The stream-end form of FRAMING is
reported as O_EOS (R192) and raises no class. -/
def Label.faultClass : Label → Option FaultClass
  | .idle => some .timeout
  | .skip _ => none
  | .start => none
  | .append _ => none
  | .short _ => some .framing
  | .crcReject _ _ _ => some .crc
  | .empty _ => some .empty
  | .publish _ _ => none
  | .eos _ => none
  | .stop _ => none
  | .halted => none
  | .overflow => none

end Sys2Proof.Machine
end

