-- ==== Sys2Proof/WellFormed.lean ====
section
/-! DEFINITION. Which instruction terms the spec gives an encoding to. -/

namespace Sys2Proof

/-- R92, R93: a DATA byte is not the sync byte. R63: a RawFrame begins with the sync byte and its point
region has at least 3 bytes (L >= 14). R73: the ranges of the outcome payloads. -/
def Instr.wf : Instr → Bool
  | .halted => true
  | .stop => true
  | .eos => true
  | .idle => true
  | .syncStart => true
  | .syncEmit => true
  | .syncDiscard => true
  | .dataSkip b => b != Config.syncByte
  | .dataAppend b => b != Config.syncByte
  | .reset => true
  | .validate => true
  | .decode => true
  | .emptyGuard => true
  | .assemble => true
  | .publish => true
  | .frame f => f.header == Config.syncByte && decide (3 ≤ f.body.length)
  | .frame14 _ _ _ _ _ _ _ _ _ => true
  | .decodeHeader => true
  | .decodeVerlen => true
  | .decodeSpeed => true
  | .decodeStartAngle => true
  | .decodeEndAngle => true
  | .decodeTimestamp => true
  | .decodeCrc => true
  | .decodePoints => true
  | .assembleAngleMin => true
  | .assembleAngleMax => true
  | .assembleWrap => true
  | .assembleAngleIncrement => true
  | .assembleRanges => true
  | .assembleIntensities => true
  | .assembleRangeMin => true
  | .assembleRangeMax => true
  | .oIdle => true
  | .oSkip b => b != Config.syncByte
  | .oStart => true
  | .oAppend b => b != Config.syncByte
  | .oShort len => decide (1 ≤ len ∧ len < Config.minLen)
  | .oCrcReject len computed carried => decide (Config.minLen ≤ len) && computed != carried
  | .oEmpty len => len == Config.minLen
  | .oPublish F S =>
      decide (1 ≤ F.points.length ∧ S.ranges.length = F.points.length
        ∧ S.intensities.length = F.points.length)
  | .oEos _ => true
  | .oStop _ => true
  | .oHalted => true
  | .oOverflow => true

end Sys2Proof
end

