-- ==== Sys2Proof/Decode.lean ====
section
/-! DEFINITION. The decoder, total on any word, code or byte sequence, rejecting by name, and after it the
encoder. Four encodings exist: the event word with the `rst` input (R60, R61), the outcome code (R73),
and the two RawFrame layouts (R63, R64). The INTERNAL, FIELD and OUTPUT rows have no encoding. -/

namespace Sys2Proof

/-- R8: the byte at the lower offset is the least significant one. -/
def le16 (b0 b1 : Byte) : U16 := BitVec.ofNat 16 (b0.toNat + 256 * b1.toNat)

/-- R75: `lo(v) = v mod 256`. -/
def lo (v : U16) : Byte := BitVec.ofNat 8 (v.toNat % 256)

/-- R75: `hi(v) = v div 256`. -/
def hi (v : U16) : Byte := BitVec.ofNat 8 (v.toNat / 256)

/-! ### Input events -/

/-- R61: the classes of input event. `SYNC` and `DATA` are `byte b` with `b` the sync byte or not. -/
inductive EventClass where
  | stop
  | eos
  | timeout
  | byte (b : Byte)
deriving DecidableEq, Repr

/-- R61: the word matches a row of the class table. -/
def EventWord.hits (ev mask pattern : EventWord) : Bool := ev &&& mask == pattern

/-- R61: priority 1 STOP, 2 EOS, 3 TIMEOUT, and then (`ev[10:8] = 001`) the byte `ev[7:0]`. -/
def classify (ev : EventWord) : EventClass :=
  if EventWord.hits ev 0x400 0x400 then .stop
  else if EventWord.hits ev 0x600 0x200 then .eos
  else if EventWord.hits ev 0x700 0x000 then .timeout
  else .byte (ev.setWidth 8)

/-- What besides the word selects a row: the table's `state_condition` looks at these and no more
(R24, R76, R171). -/
structure Ctx where
  halted : Bool
  st : SyncState
  len : Nat
deriving DecidableEq, Repr

/-- R76, R91 to R95: the rule a byte takes. -/
def selectByte (c : Ctx) (b : Byte) : Instr :=
  if b = Config.syncByte then
    match c.st with
    | .seeking => .syncStart
    | .accumulating => if Config.minLen ≤ c.len then .syncEmit else .syncDiscard
  else
    match c.st with
    | .seeking => .dataSkip b
    | .accumulating => .dataAppend b

/-- R171: the dispatch order of a step: halted, STOP, EOS, TIMEOUT, BYTE. Every word selects exactly
one row (R61, R98). -/
def selectEvent (c : Ctx) (ev : EventWord) : Instr :=
  if c.halted then .halted
  else
    match classify ev with
    | .stop => .stop
    | .eos => .eos
    | .timeout => .idle
    | .byte b => selectByte c b

/-- R216: `rst` has priority over everything; the word presented with it is ignored. -/
def selectInput (c : Ctx) (rst : Bool) (ev : EventWord) : Instr :=
  if rst then .reset else selectEvent c ev

/-- The table's `state_condition` of a row, together with the byte class of the DATA rows. A row that is
no event admits every context. -/
def Instr.admits (c : Ctx) : Instr → Bool
  | .halted => c.halted
  | .stop => !c.halted
  | .eos => !c.halted
  | .idle => !c.halted
  | .syncStart => !c.halted && c.st == .seeking
  | .syncEmit => !c.halted && c.st == .accumulating && decide (Config.minLen ≤ c.len)
  | .syncDiscard => !c.halted && c.st == .accumulating && decide (c.len < Config.minLen)
  | .dataSkip b => !c.halted && c.st == .seeking && b != Config.syncByte
  | .dataAppend b => !c.halted && c.st == .accumulating && b != Config.syncByte
  | .reset => true
  | .validate => true
  | .decode => true
  | .emptyGuard => true
  | .assemble => true
  | .publish => true
  | .frame _ => true
  | .frame14 _ _ _ _ _ _ _ _ _ => true
  | .decodeHeader => true
  | .decodeVerlen => true
  | .decodeSpeed => true
  | .decodeStartAngle => true
  | .decodeEndAngle => true
  | .decodeTimestamp => true
  | .decodeCrc => true
  | .decodePoints => true
  | .assembleAngleMin => true
  | .assembleAngleMax => true
  | .assembleWrap => true
  | .assembleAngleIncrement => true
  | .assembleRanges => true
  | .assembleIntensities => true
  | .assembleRangeMin => true
  | .assembleRangeMax => true
  | .oIdle => true
  | .oSkip _ => true
  | .oStart => true
  | .oAppend _ => true
  | .oShort _ => true
  | .oCrcReject _ _ _ => true
  | .oEmpty _ => true
  | .oPublish _ _ => true
  | .oEos _ => true
  | .oStop _ => true
  | .oHalted => true
  | .oOverflow => true

/-! ### Outcome codes and frame layouts -/

/-- Why the decoder rejects. -/
inductive DecodeError where
  /-- R73, U13: codes 12 to 15 are reserved and never produced. -/
  | reservedOutcome
  /-- R73: the payload is not the one of the code's label. -/
  | payloadMismatch
  /-- R63: a RawFrame has at least 14 bytes. -/
  | frameTooShort
  /-- R64: the fixed-width layout has exactly 14 bytes. -/
  | frameNot14
  /-- R63: a RawFrame begins with the sync byte. -/
  | frameHeader
deriving DecidableEq, Repr

/-- R73: the payload column of the outcome table. -/
inductive Payload where
  | none
  | byte (b : Byte)
  | len (n : Nat)
  | crc (len : Nat) (computed carried : Byte)
  | scan (frame : DecodedFrame) (scan : NormalizedScan)
deriving DecidableEq, Repr

/-- R73: the outcome codes. -/
def decodeOutcome (code : BitVec 4) (p : Payload) : Except DecodeError Instr :=
  match code.toNat, p with
  | 0, .none => .ok .oIdle
  | 1, .byte b => .ok (.oSkip b)
  | 2, .none => .ok .oStart
  | 3, .byte b => .ok (.oAppend b)
  | 4, .len n => .ok (.oShort n)
  | 5, .crc n a b => .ok (.oCrcReject n a b)
  | 6, .len n => .ok (.oEmpty n)
  | 7, .scan f s => .ok (.oPublish f s)
  | 8, .len n => .ok (.oEos n)
  | 9, .len n => .ok (.oStop n)
  | 10, .none => .ok .oHalted
  | 11, .none => .ok .oOverflow
  | n, _ => if n < 12 then .error .payloadMismatch else .error .reservedOutcome

/-- R63: the field layout of a RawFrame of any length L >= 14: six bytes in front, five at the end, the
point region between them. -/
def decodeFrame (bytes : List Byte) : Except DecodeError Instr :=
  if bytes.length < Config.minLen then .error .frameTooShort
  else
    match bytes with
    | h :: v :: s0 :: s1 :: a0 :: a1 :: rest =>
      match rest.drop (rest.length - 5) with
      | [e0, e1, t0, t1, c] =>
        if h = Config.syncByte then
          .ok (.frame
            { header := h, verlen := v, speed := le16 s0 s1, startAngle := le16 a0 a1,
              body := rest.take (rest.length - 5),
              endAngle := le16 e0 e1, timestamp := le16 t0 t1, crc := c })
        else .error .frameHeader
      | _ => .error .frameTooShort
    | _ => .error .frameTooShort

/-- R64: the fixed-width layout at L = 14. -/
def decodeFrame14 (bytes : List Byte) : Except DecodeError Instr :=
  match bytes with
  | [h, v, s0, s1, a0, a1, x6, x7, x8, e0, e1, t0, t1, c] =>
    if h = Config.syncByte then
      .ok (.frame14 v (le16 s0 s1) (le16 a0 a1) x6 x7 x8 (le16 e0 e1) (le16 t0 t1) c)
    else .error .frameHeader
  | _ => .error .frameNot14

/-- The encoded forms. `event` is what the block is given in one step (R60). -/
inductive Code where
  | event (rst : Bool) (ev : EventWord)
  | outcome (code : BitVec 4) (payload : Payload)
  | rawFrame (bytes : List Byte)
  | rawFrame14 (bytes : List Byte)
deriving DecidableEq, Repr

/-- The decoder, total: every code is an instruction or a named rejection. -/
def decode (c : Ctx) : Code → Except DecodeError Instr
  | .event rst ev => .ok (selectInput c rst ev)
  | .outcome code p => decodeOutcome code p
  | .rawFrame bytes => decodeFrame bytes
  | .rawFrame14 bytes => decodeFrame14 bytes

/-! ### The encoder -/

/-- R60, 95_test_vectors.md part 3: the event word of a byte `hh` is `0x100 + 0xhh`. -/
def byteWord (b : Byte) : EventWord := 0x100 ||| b.setWidth 11

/-- R63: the bytes of a RawFrame, offset 0 first. -/
def frameBytes (f : RawFrame) : List Byte :=
  [f.header, f.verlen, lo f.speed, hi f.speed, lo f.startAngle, hi f.startAngle] ++ f.body ++
    [lo f.endAngle, hi f.endAngle, lo f.timestamp, hi f.timestamp, f.crc]

/-- R64: the 14 bytes of the fixed-width layout; its header is the sync byte. -/
def frame14Bytes (verlen : Byte) (speed startAngle : U16) (x6 x7 x8 : Byte) (endAngle timestamp : U16)
    (crc : Byte) : List Byte :=
  [Config.syncByte, verlen, lo speed, hi speed, lo startAngle, hi startAngle, x6, x7, x8,
    lo endAngle, hi endAngle, lo timestamp, hi timestamp, crc]

/-- The code of an instruction, from the table's match column and R73; none for the rows of which the
table says "no event-word encoding". Bits the class ignores are 0. -/
def encode : Instr → Option Code
  | .halted => some (.event false 0x000)
  | .stop => some (.event false 0x400)
  | .eos => some (.event false 0x200)
  | .idle => some (.event false 0x000)
  | .syncStart => some (.event false 0x154)
  | .syncEmit => some (.event false 0x154)
  | .syncDiscard => some (.event false 0x154)
  | .dataSkip b => some (.event false (byteWord b))
  | .dataAppend b => some (.event false (byteWord b))
  | .reset => some (.event true 0x000)
  | .validate => none
  | .decode => none
  | .emptyGuard => none
  | .assemble => none
  | .publish => none
  | .frame f => some (.rawFrame (frameBytes f))
  | .frame14 v s a x6 x7 x8 e t c => some (.rawFrame14 (frame14Bytes v s a x6 x7 x8 e t c))
  | .decodeHeader => none
  | .decodeVerlen => none
  | .decodeSpeed => none
  | .decodeStartAngle => none
  | .decodeEndAngle => none
  | .decodeTimestamp => none
  | .decodeCrc => none
  | .decodePoints => none
  | .assembleAngleMin => none
  | .assembleAngleMax => none
  | .assembleWrap => none
  | .assembleAngleIncrement => none
  | .assembleRanges => none
  | .assembleIntensities => none
  | .assembleRangeMin => none
  | .assembleRangeMax => none
  | .oIdle => some (.outcome 0 .none)
  | .oSkip b => some (.outcome 1 (.byte b))
  | .oStart => some (.outcome 2 .none)
  | .oAppend b => some (.outcome 3 (.byte b))
  | .oShort n => some (.outcome 4 (.len n))
  | .oCrcReject n a b => some (.outcome 5 (.crc n a b))
  | .oEmpty n => some (.outcome 6 (.len n))
  | .oPublish f s => some (.outcome 7 (.scan f s))
  | .oEos n => some (.outcome 8 (.len n))
  | .oStop n => some (.outcome 9 (.len n))
  | .oHalted => some (.outcome 10 .none)
  | .oOverflow => some (.outcome 11 .none)

/-! ### The table's words -/

/-- The payload of zeros of a code (the table gives a payload no bits). -/
def zeroPayload (code : Nat) : Payload :=
  match code with
  | 1 => .byte 0
  | 3 => .byte 0
  | 4 => .len 0
  | 5 => .crc 0 0 0
  | 6 => .len 0
  | 7 => .scan default default
  | 8 => .len 0
  | 9 => .len 0
  | _ => .none

/-- `n` bytes of a number, least significant first. -/
def bytesOfNat : Nat → Nat → List Byte
  | 0, _ => []
  | n + 1, w => BitVec.ofNat 8 (w % 256) :: bytesOfNat n (w / 256)

/-- What follows reset: running, SEEKING, nothing buffered (R33). -/
def Ctx.afterReset : Ctx := { halted := false, st := .seeking, len := 0 }

/-- The instruction of a table word (log entry 12): 16 bits hold an event word (its upper 5 bits do not
exist), read in the state after reset; 8 bits hold an outcome code (its upper 4 bits do not exist);
112 bits hold the fixed-width frame and more bytes a frame, offset 0 in the lowest bits. -/
def decodeTableWord (nbits w : Nat) : Option Instr :=
  if nbits = 16 then
    if w < 2048 then (decode .afterReset (.event false (BitVec.ofNat 11 w))).toOption else none
  else if nbits = 8 then
    if w < 16 then (decode .afterReset (.outcome (BitVec.ofNat 4 w) (zeroPayload w))).toOption else none
  else if nbits = 112 then (decode .afterReset (.rawFrame14 (bytesOfNat 14 w))).toOption
  else if 112 < nbits ∧ nbits % 8 = 0 then
    (decode .afterReset (.rawFrame (bytesOfNat (nbits / 8) w))).toOption
  else none

end Sys2Proof
end

