-- ==== Sys2Proof/Machine/Operands.lean ====
section
/-! DEFINITION. The operand forms: reads of the candidate and of the transient registers (R10, R40, R44,
R65, R66). The other operand forms are the ROM's `Memory.read` (Rom.lean) and the byte of an event
(Decode.lean). -/

namespace Sys2Proof.Machine

/-- R10: `MemRead(a, 1)`, defined only inside the buffer. -/
def memRead8 (B : List Byte) (a : Nat) : Option Byte := B[a]?

/-- R10, R65: `MemRead(a, 2) = LE16(B[a:a+2])`, two byte reads (R43), defined only inside the buffer. -/
def memRead16 (B : List Byte) (a : Nat) : Option U16 :=
  match memRead8 B a, memRead8 B (a + 1) with
  | some b0, some b1 => some (le16 b0 b1)
  | _, _ => none

/-- R33: a transient register is read by name, and only after it was written. -/
def need {α : Type} (r : Option α) : Except Refusal α :=
  match r with
  | some v => .ok v
  | none => .error .transientNoValue

/-- R125, U14: a read of DECODE's operand `B`, defined only for L >= 14. -/
def readCandidate {α : Type} (read : List Byte → Option α) (d : Datapath) : Except Refusal α := do
  let B ← need d.cand
  if B.length < Config.minLen then .error .decodeTooShort
  else
    match read B with
    | some v => .ok v
    | none => .error .decodeTooShort

end Sys2Proof.Machine
end

