-- ==== Sys2Proof/Machine/Ops.lean ====
section
/-! DEFINITION. The named operations the meanings are made of: the three buffer writes (R41), the outcome
label, raising a fault class (R10, R190), the end of a step, and taking the next input event. -/

namespace Sys2Proof.Machine

/-- An operation's result. -/
abbrev Result := Host.Outcome State Fault Refusal

/-- Run `f` on the next state, if there is one. -/
def andThen (r : Result) (f : State → Result) : Result :=
  match r with
  | .next s => f s
  | .fault e => .fault e
  | .refused e => .refused e

/-- R24, R76: what the selection of a row looks at. -/
def State.ctx (s : State) : Ctx := { halted := s.halted, st := s.st, len := s.buf.length }

/-! ### The frame buffer -/

/-- R10, R41: append, the one write form `MemWrite(len(buf), 1, b)`. -/
def State.bufAppend (s : State) (b : Byte) : State := { s with buf := s.buf ++ [b] }

/-- R41, R91, R94, R95: restart the buffer with the sync byte just read. -/
def State.bufRestart (s : State) : State := { s with st := .accumulating, buf := [Config.syncByte] }

/-- R41, R97, R175, R176: clear the buffer and halt. -/
def State.terminate (s : State) : State := { s with st := .seeking, buf := [], halted := true }

/-- R208: a data byte has no room. Never so on this hardware, whose `Config.bufMax` is none. -/
def bufFull (len : Nat) : Bool :=
  match Config.bufMax with
  | none => false
  | some m => decide (m ≤ len)

/-! ### The outputs of a step -/

/-- R10: `outcome <- X`. -/
def State.setLabel (s : State) (l : Label) : State := { s with out := { s.out with label := some l } }

/-- R10, R190, R198: raise a fault class. The step's label is set and nothing is published; no state is
saved, no handler is entered, and the next event is processed normally (R199: there is no return). The
state changes of the class are its rule's (R191 to R194). -/
def State.raise (s : State) (l : Label) : State := { s with out := { label := some l } }

/-- R25, R170: at the beginning of a step no transient and no output holds a value. -/
def State.beginStep (s : State) : State := { s with dp := .empty, out := {} }

/-- R25, R33: at the end of a step the transients hold nothing. -/
def State.endStep (s : State) : State := { s with dp := .empty }

/-- An EVENT row: `body` in the states that select it (R76, R171), refused in the others. -/
def eventStep (i : Instr) (body : State → Result) (s : State) : Result :=
  if i.admits s.ctx then andThen (body s.beginStep) fun t => .next t.endStep
  else .refused .notSelected

/-- An operation on the transients alone: persistent state, ROM, input and outputs are left as they
are (R110, R125, R145). -/
def onDatapath (f : Datapath → Except Refusal Datapath) (s : State) : Result :=
  match f s.dp with
  | .ok d => .next { s with dp := d }
  | .error e => .refused e

/-! ### The input -/

/-- What is presented when the environment has listed nothing more: no byte available now, the TIMEOUT
word (R60; log entry 2). -/
def Stimulus.nothing : Stimulus := { rst := false, ev := 0x000 }

/-- R51: the input is consumed once, in order, one event a step. -/
def State.fetch (s : State) : Stimulus × State :=
  match s.input with
  | [] => (Stimulus.nothing, s)
  | x :: xs => (x, { s with input := xs })

/-- The environment presents an event next, before what it had yet to present. -/
def State.presentNext (s : State) (x : Stimulus) : State := { s with input := x :: s.input }

/-- R42, R74: bytes presented one after another, offset 0 first, before what was yet to be presented. -/
def State.presentBytes (s : State) (bytes : List Byte) : State :=
  { s with input := bytes.map (fun b => { rst := false, ev := byteWord b }) ++ s.input }

/-- Where a table word is stored so that it is presented next (log entry 12): 16 bits are one event
word; a frame's bytes are its byte events; an 8-bit outcome code is an output and is presented to
nothing. -/
def State.presentWord (s : State) (nbits w : Nat) : State :=
  if nbits = 16 then s.presentNext { rst := false, ev := BitVec.ofNat 11 w }
  else if 112 ≤ nbits ∧ nbits % 8 = 0 then s.presentBytes (bytesOfNat (nbits / 8) w)
  else s

end Sys2Proof.Machine
end

