-- ==== Sys2Proof/Machine/Outcomes.lean ====
section
/-! DEFINITION. The OUTCOME rows (R73): each is the operation `outcome <- X(payload)` of R10 and writes the
outcome label, nothing else (log entry 8). -/

namespace Sys2Proof.Machine

/-- O_IDLE. -/
def execOIdle (s : State) : Result := .next (s.setLabel .idle)

/-- O_SKIP. -/
def execOSkip (b : Byte) (s : State) : Result := .next (s.setLabel (.skip b))

/-- O_START. -/
def execOStart (s : State) : Result := .next (s.setLabel .start)

/-- O_APPEND. -/
def execOAppend (b : Byte) (s : State) : Result := .next (s.setLabel (.append b))

/-- O_SHORT. -/
def execOShort (len : Nat) (s : State) : Result := .next (s.setLabel (.short len))

/-- O_CRC_REJECT. -/
def execOCrcReject (len : Nat) (computed carried : Byte) (s : State) : Result :=
  .next (s.setLabel (.crcReject len computed carried))

/-- O_EMPTY. -/
def execOEmpty (len : Nat) (s : State) : Result := .next (s.setLabel (.empty len))

/-- O_PUBLISH. -/
def execOPublish (F : DecodedFrame) (S : NormalizedScan) (s : State) : Result :=
  .next (s.setLabel (.publish F S))

/-- O_EOS. -/
def execOEos (len : Nat) (s : State) : Result := .next (s.setLabel (.eos len))

/-- O_STOP. -/
def execOStop (len : Nat) (s : State) : Result := .next (s.setLabel (.stop len))

/-- O_HALTED. -/
def execOHalted (s : State) : Result := .next (s.setLabel .halted)

/-- O_OVERFLOW (R208): a fault of the model, "state not final, no claim holds of the run". -/
def execOOverflow (_s : State) : Result := .fault .bufferOverflow

end Sys2Proof.Machine
end

