-- ==== Sys2Proof/Machine/Normalizer.lean ====
section
/-! DEFINITION. The angular/range normalizer: ASSEMBLE and its OUTPUT rows (R145 to R158), in the exact
layer of R154. -/

namespace Sys2Proof.Machine

/-- R9: `radians(d) = d * PI / 180`. -/
def radians (deg : Rat) : Angle := { piCoeff := deg / 180 }

/-- R146: `radians(start_angle / 100)`. -/
def angleMinOp (d : Datapath) : Except Refusal Datapath := do
  let s ← need d.startAngle
  pure { d with angleMin := some (radians ((s.toNat : Rat) / (Config.cdegPerDeg : Rat))) }

/-- R147: `radians(end_angle / 100)`, the value as decoded. -/
def angleMaxOp (d : Datapath) : Except Refusal Datapath := do
  let e ← need d.endAngle
  pure { d with angleMax := some (radians ((e.toNat : Rat) / (Config.cdegPerDeg : Rat))) }

/-- R148: the adjusted end angle, a natural number that does not wrap (D10). -/
def wrapAdjust (s e : U16) : Nat :=
  if e.toNat < s.toNat then e.toNat + Config.wrapCdeg else e.toNat

/-- R149: `span = end_adj - s`, an integer. -/
def spanOf (endAdj : Nat) (s : U16) : Int := (endAdj : Int) - (s.toNat : Int)

/-- R148, and the span as the table's row `ASSEMBLE.wrap` has it. -/
def wrapOp (d : Datapath) : Except Refusal Datapath := do
  let s ← need d.startAngle
  let e ← need d.endAngle
  pure { d with endAdj := some (wrapAdjust s e), span := some (spanOf (wrapAdjust s e) s) }

/-- R149: `radians((span / 100) / N)`, defined only for `N >= 1` (U1). -/
def angleIncrementOp (d : Datapath) : Except Refusal Datapath := do
  let s ← need d.startAngle
  let endAdj ← need d.endAdj
  let points ← need d.points
  if points.length = 0 then .error .assembleEmpty
  else
    let span := spanOf endAdj s
    let deg := (span : Rat) / (Config.cdegPerDeg : Rat) / (points.length : Rat)
    pure { d with span := some span, angleIncrement := some (radians deg) }

/-- R150: millimetres to metres, in order, no point dropped. -/
def rangesOp (d : Datapath) : Except Refusal Datapath := do
  let points ← need d.points
  pure { d with ranges := some (points.map fun p => (p.distance.toNat : Rat) / (Config.mmPerM : Rat)) }

/-- R151: the intensities as decoded, in order. -/
def intensitiesOp (d : Datapath) : Except Refusal Datapath := do
  let points ← need d.points
  pure { d with intensities := some (points.map (·.intensity)) }

/-- R7: the minimum of a non-empty sequence, given as its first element and the rest. -/
def minOf (r : Rat) (rs : List Rat) : Rat := rs.foldl (fun m x => if x < m then x else m) r

/-- R7: the maximum of a non-empty sequence. -/
def maxOf (r : Rat) (rs : List Rat) : Rat := rs.foldl (fun m x => if m < x then x else m) r

/-- R152: `min(ranges)`. -/
def rangeMinOp (d : Datapath) : Except Refusal Datapath := do
  let ranges ← need d.ranges
  match ranges with
  | [] => .error .assembleEmpty
  | r :: rs => pure { d with rangeMin := some (minOf r rs) }

/-- R153: `max(ranges)`. -/
def rangeMaxOp (d : Datapath) : Except Refusal Datapath := do
  let ranges ← need d.ranges
  match ranges with
  | [] => .error .assembleEmpty
  | r :: rs => pure { d with rangeMax := some (maxOf r rs) }

/-- R145: all fields, in the order of R146 to R153, defined only for `N >= 1` (D18, U1). -/
def assembleOp (d : Datapath) : Except Refusal Datapath := do
  let points ← need d.points
  if points.length = 0 then .error .assembleEmpty
  else
    let d ← angleMinOp d
    let d ← angleMaxOp d
    let d ← wrapOp d
    let d ← angleIncrementOp d
    let d ← rangesOp d
    let d ← intensitiesOp d
    let d ← rangeMinOp d
    rangeMaxOp d

/-- R145: run ASSEMBLE. -/
def runAssemble (s : State) : Result := onDatapath assembleOp s

/-- ASSEMBLE (R145). -/
def execAssemble (s : State) : Result := runAssemble s

/-- ASSEMBLE.angle_min (R146). -/
def execAssembleAngleMin (s : State) : Result := onDatapath angleMinOp s

/-- ASSEMBLE.angle_max (R147). -/
def execAssembleAngleMax (s : State) : Result := onDatapath angleMaxOp s

/-- ASSEMBLE.wrap (R148). -/
def execAssembleWrap (s : State) : Result := onDatapath wrapOp s

/-- ASSEMBLE.angle_increment (R149). -/
def execAssembleAngleIncrement (s : State) : Result := onDatapath angleIncrementOp s

/-- ASSEMBLE.ranges (R150). -/
def execAssembleRanges (s : State) : Result := onDatapath rangesOp s

/-- ASSEMBLE.intensities (R151). -/
def execAssembleIntensities (s : State) : Result := onDatapath intensitiesOp s

/-- ASSEMBLE.range_min (R152). -/
def execAssembleRangeMin (s : State) : Result := onDatapath rangeMinOp s

/-- ASSEMBLE.range_max (R153). -/
def execAssembleRangeMax (s : State) : Result := onDatapath rangeMaxOp s

end Sys2Proof.Machine
end

