-- ==== Sys2Proof/Machine/Parser.lean ====
section
/-! DEFINITION. The fixed-width binary frame parser: DECODE and its FIELD rows (R125 to R136). -/

namespace Sys2Proof.Machine

/-- R126. -/
def headerOp (d : Datapath) : Except Refusal Datapath := do
  let v ← readCandidate (fun B => memRead8 B 0) d
  pure { d with header := some v }

/-- R127. -/
def verlenOp (d : Datapath) : Except Refusal Datapath := do
  let v ← readCandidate (fun B => memRead8 B 1) d
  pure { d with verlen := some v }

/-- R128. -/
def speedOp (d : Datapath) : Except Refusal Datapath := do
  let v ← readCandidate (fun B => memRead16 B 2) d
  pure { d with speed := some v }

/-- R129. -/
def startAngleOp (d : Datapath) : Except Refusal Datapath := do
  let v ← readCandidate (fun B => memRead16 B 4) d
  pure { d with startAngle := some v }

/-- R130: offset `L-5`. -/
def endAngleOp (d : Datapath) : Except Refusal Datapath := do
  let v ← readCandidate (fun B => memRead16 B (B.length - 5)) d
  pure { d with endAngle := some v }

/-- R131: offset `L-3`. -/
def timestampOp (d : Datapath) : Except Refusal Datapath := do
  let v ← readCandidate (fun B => memRead16 B (B.length - 3)) d
  pure { d with timestamp := some v }

/-- R132: offset `L-1`. -/
def crcOp (d : Datapath) : Except Refusal Datapath := do
  let v ← readCandidate (fun B => memRead8 B (B.length - 1)) d
  pure { d with crc := some v }

/-- R66, R133: the point of the stride at `i`: distance at `i`, `i+1`, intensity at `i+3` (C7). -/
def pointAt (B : List Byte) (i : Nat) : Option Point :=
  match memRead16 B i, memRead8 B (i + Config.intensityOfs) with
  | some dist, some x => some { distance := dist, intensity := x }
  | _, _ => none

/-- R133: `while i < L - 8`, step 3. The first argument is fuel; the buffer's length is enough, since
`i` rises at every turn. -/
def pointLoop (B : List Byte) : Nat → Nat → Option (List Point)
  | 0, _ => some []
  | fuel + 1, i =>
    if i < B.length - Config.tailGuard then
      match pointAt B i, pointLoop B fuel (i + Config.stride) with
      | some p, some ps => some (p :: ps)
      | _, _ => none
    else some []

/-- R133. -/
def pointsOp (d : Datapath) : Except Refusal Datapath := do
  let ps ← readCandidate (fun B => pointLoop B B.length Config.pointBase) d
  pure { d with points := some ps }

/-- R125: all fields, in the order of R126 to R133. -/
def decodeOp (d : Datapath) : Except Refusal Datapath := do
  let d ← headerOp d
  let d ← verlenOp d
  let d ← speedOp d
  let d ← startAngleOp d
  let d ← endAngleOp d
  let d ← timestampOp d
  let d ← crcOp d
  pointsOp d

/-- R125: run DECODE. -/
def runDecode (s : State) : Result := onDatapath decodeOp s

/-- DECODE (R125). -/
def execDecode (s : State) : Result := runDecode s

/-- DECODE.header (R126). -/
def execDecodeHeader (s : State) : Result := onDatapath headerOp s

/-- DECODE.verlen (R127). -/
def execDecodeVerlen (s : State) : Result := onDatapath verlenOp s

/-- DECODE.speed (R128). -/
def execDecodeSpeed (s : State) : Result := onDatapath speedOp s

/-- DECODE.start_angle (R129). -/
def execDecodeStartAngle (s : State) : Result := onDatapath startAngleOp s

/-- DECODE.end_angle (R130). -/
def execDecodeEndAngle (s : State) : Result := onDatapath endAngleOp s

/-- DECODE.timestamp (R131). -/
def execDecodeTimestamp (s : State) : Result := onDatapath timestampOp s

/-- DECODE.crc (R132). -/
def execDecodeCrc (s : State) : Result := onDatapath crcOp s

/-- DECODE.points (R133). -/
def execDecodePoints (s : State) : Result := onDatapath pointsOp s

end Sys2Proof.Machine
end

