-- ==== Sys2Proof/Machine/Validator.lean ====
section
/-! DEFINITION. The CRC8 validator: VALIDATE (R110 to R115). -/

namespace Sys2Proof.Machine

/-- R112: one table lookup, `ROM((crc_acc XOR M[j]) & 0xFF)`. -/
def crcStep (rom : Memory) (acc b : Byte) : Byte := rom.read ((acc ^^^ b) &&& 0xFF)

/-- R112: the CRC of a byte sequence, first byte first, from CRC_INIT; no final XOR. -/
def crc8 (rom : Memory) (M : List Byte) : Byte := M.foldl (crcStep rom) Config.crcInit

/-- R110, R111, R113: shorter than 14 bytes is rejected without a lookup (`crc_acc` is not written);
otherwise `crc_acc` is the CRC of all bytes but the last, and the buffer is accepted iff it equals the
last. -/
def validateOp (rom : Memory) (d : Datapath) : Except Refusal Datapath := do
  let B ← need d.cand
  if B.length < Config.minLen then pure { d with verdict := some false }
  else
    let acc := crc8 rom (B.take (B.length - 1))
    pure { d with crcAcc := some acc, verdict := some (memRead8 B (B.length - 1) == some acc) }

/-- R110: run VALIDATE. -/
def runValidate (s : State) : Result := onDatapath (validateOp s.rom) s

/-- VALIDATE (R110 to R113). -/
def execValidate (s : State) : Result := runValidate s

/-- R193, R172: the label of a rejected candidate, `CRC(L, crc8(B[0:L-1]), B[L-1])`. -/
def rejectLabel (d : Datapath) : Except Refusal Label := do
  let B ← need d.cand
  let computed ← need d.crcAcc
  let carried ← readCandidate (fun B => memRead8 B (B.length - 1)) d
  pure (.crcReject B.length computed carried)

end Sys2Proof.Machine
end

