-- ==== Sys2Proof/Machine/Pipeline.lean ====
section
/-! DEFINITION. The pipeline: the empty-point guard, PUBLISH, candidate resolution, and the events that are
not the synchronizer's alone: STOP, EOS, HALTED and reset (R170 to R177, R216). -/

namespace Sys2Proof.Machine

/-- R77: the DecodedFrame in the transients. -/
def Datapath.decoded (d : Datapath) : Except Refusal DecodedFrame := do
  let header ← need d.header
  let verlen ← need d.verlen
  let speed ← need d.speed
  let startAngle ← need d.startAngle
  let endAngle ← need d.endAngle
  let timestamp ← need d.timestamp
  let crc ← need d.crc
  let points ← need d.points
  pure { header, verlen, speed, startAngle, endAngle, timestamp, crc, points }

/-- R72: the NormalizedScan in the transients. -/
def Datapath.normalized (d : Datapath) : Except Refusal NormalizedScan := do
  let angleMin ← need d.angleMin
  let angleMax ← need d.angleMax
  let angleIncrement ← need d.angleIncrement
  let ranges ← need d.ranges
  let intensities ← need d.intensities
  let rangeMin ← need d.rangeMin
  let rangeMax ← need d.rangeMax
  pure { angleMin, angleMax, angleIncrement, ranges, intensities, rangeMin, rangeMax }

/-- R155: `rnd` of each real or rational field. -/
def deliver (S : NormalizedScan) : DeliveredScan :=
  { angleMin := Config.rnd (.ofAngle S.angleMin)
    angleMax := Config.rnd (.ofAngle S.angleMax)
    angleIncrement := Config.rnd (.ofAngle S.angleIncrement)
    ranges := S.ranges.map fun r => Config.rnd (.ofRat r)
    intensities := S.intensities
    rangeMin := Config.rnd (.ofRat S.rangeMin)
    rangeMax := Config.rnd (.ofRat S.rangeMax) }

/-- R174, R194: no points raises EMPTY(L) and ASSEMBLE is not invoked; with points the guard does
nothing. -/
def runEmptyGuard (s : State) : Result :=
  match need s.dp.points, need s.dp.cand with
  | .error e, _ => .refused e
  | _, .error e => .refused e
  | .ok points, .ok B => if points.length = 0 then .next (s.raise (.empty B.length)) else .next s

/-- R173: the whole record is delivered in this one step; the label carries the DecodedFrame too
(D21). The sink cannot refuse (R204). -/
def runPublish (s : State) : Result :=
  match s.dp.decoded, s.dp.normalized with
  | .error e, _ => .refused e
  | _, .error e => .refused e
  | .ok F, .ok S =>
    .next { s with out := { label := some (.publish F S), scan := some S, delivered := some (deliver S) } }

/-- EMPTYGUARD (R174). -/
def execEmptyGuard (s : State) : Result := runEmptyGuard s

/-- PUBLISH (R173). -/
def execPublish (s : State) : Result := runPublish s

/-- R193: raise CRC with the lengths and CRC values of the rejected candidate. -/
def raiseCrc (s : State) : Result :=
  match rejectLabel s.dp with
  | .ok l => .next (s.raise l)
  | .error e => .refused e

/-- R172: validator, decoder, empty-point guard, normalizer, publish, as far as each allows. -/
def resolve (s : State) : Result :=
  andThen (runValidate s) fun s1 =>
    if s1.dp.verdict = some true then
      andThen (runDecode s1) fun s2 =>
        andThen (runEmptyGuard s2) fun s3 =>
          if s3.dp.points = some [] then .next s3
          else andThen (runAssemble s3) runPublish
    else raiseCrc s1

/-- R94: hand over the buffer as candidate `B` and restart it with the new sync byte. -/
def State.emitCandidate (s : State) : State :=
  { s with dp := { cand := some s.buf } }.bufRestart

/-- SYNC.emit (R94), followed in the same step by the resolution (R172). -/
def execSyncEmit (s : State) : Result :=
  eventStep .syncEmit (fun t => resolve t.emitCandidate) s

/-- STOP (R175): immediate. -/
def execStop (s : State) : Result :=
  eventStep .stop
    (fun t =>
      match Config.stopPolicy with
      | .immediate => .next ((t.setLabel (.stop t.buf.length)).terminate)) s

/-- EOS (R97, R176): the buffer is discarded whatever its length, and `eos_out` is 1 in this step
only. -/
def execEos (s : State) : Result :=
  eventStep .eos
    (fun t =>
      .next { t.terminate with out := { label := some (.eos t.buf.length), eosOut := true } }) s

/-- HALTED (R177): every event is ignored. -/
def execHalted (s : State) : Result :=
  eventStep .halted (fun t => .next (t.setLabel .halted)) s

/-- RESET (R216): the reset state whatever the state was. The ROM is not changed by a reset (R215), and
what the environment has yet to present is not the block's (R31). -/
def execReset (s : State) : Result :=
  .next { State.reset with rom := s.rom, input := s.input }

end Sys2Proof.Machine
end

