-- ==== Sys2Proof/Machine/Synchronizer.lean ====
section
/-! DEFINITION. The frame synchronizer's rows that emit nothing (R91 to R93, R95, R96). SYNC.emit and EOS,
which the pipeline completes, stand in Pipeline.lean. -/

namespace Sys2Proof.Machine

/-- SYNC.start (R91). -/
def execSyncStart (s : State) : Result :=
  eventStep .syncStart (fun t => .next ((t.setLabel .start).bufRestart)) s

/-- DATA.skip (R92): no state change. -/
def execDataSkip (b : Byte) (s : State) : Result :=
  eventStep (.dataSkip b) (fun t => .next (t.setLabel (.skip b))) s

/-- DATA.append (R93); R208 at a finite `Config.bufMax`. -/
def execDataAppend (b : Byte) (s : State) : Result :=
  eventStep (.dataAppend b)
    (fun t =>
      if bufFull t.buf.length then .fault .bufferOverflow
      else .next ((t.setLabel (.append b)).bufAppend b)) s

/-- SYNC.discard (R95, R192): FRAMING with the length discarded, the leading sync byte included (C4). -/
def execSyncDiscard (s : State) : Result :=
  eventStep .syncDiscard (fun t => .next ((t.raise (.short t.buf.length)).bufRestart)) s

/-- IDLE (R96, R191): a timeout is retried; no state change. -/
def execIdle (s : State) : Result :=
  eventStep .idle
    (fun t =>
      match Config.timeoutPolicy with
      | .retry => .next (t.raise .idle)) s

end Sys2Proof.Machine
end

