-- ==== Sys2Proof/Machine/WireFormat.lean ====
section
/-! DEFINITION. The RAWFRAME rows (R63, R64, R75): a frame on the wire is its bytes, offset 0 first, each a
BYTE event. Running the row puts these events before what the environment had yet to present; the block
itself does nothing until the steps that take them (log entry 7). -/

namespace Sys2Proof.Machine

/-- FRAME (R63). -/
def execFrame (f : RawFrame) (s : State) : Result := .next (s.presentBytes (frameBytes f))

/-- FRAME14 (R64). -/
def execFrame14 (verlen : Byte) (speed startAngle : U16) (x6 x7 x8 : Byte) (endAngle timestamp : U16)
    (crc : Byte) (s : State) : Result :=
  .next (s.presentBytes (frame14Bytes verlen speed startAngle x6 x7 x8 endAngle timestamp crc))

end Sys2Proof.Machine
end

