-- ==== Sys2Proof/Machine/Dispatch.lean ====
section
/-! DEFINITION. One arm per constructor of Instr, each one direct call of its meaning. -/

namespace Sys2Proof.Machine

def exec (i : Instr) (s : State) : Host.Outcome State Fault Refusal :=
  match i with
  | .halted => Sys2Proof.Machine.execHalted s
  | .stop => Sys2Proof.Machine.execStop s
  | .eos => Sys2Proof.Machine.execEos s
  | .idle => Sys2Proof.Machine.execIdle s
  | .syncStart => Sys2Proof.Machine.execSyncStart s
  | .syncEmit => Sys2Proof.Machine.execSyncEmit s
  | .syncDiscard => Sys2Proof.Machine.execSyncDiscard s
  | .dataSkip b => Sys2Proof.Machine.execDataSkip b s
  | .dataAppend b => Sys2Proof.Machine.execDataAppend b s
  | .reset => Sys2Proof.Machine.execReset s
  | .validate => Sys2Proof.Machine.execValidate s
  | .decode => Sys2Proof.Machine.execDecode s
  | .emptyGuard => Sys2Proof.Machine.execEmptyGuard s
  | .assemble => Sys2Proof.Machine.execAssemble s
  | .publish => Sys2Proof.Machine.execPublish s
  | .frame f => Sys2Proof.Machine.execFrame f s
  | .frame14 v sp a x6 x7 x8 e t c => Sys2Proof.Machine.execFrame14 v sp a x6 x7 x8 e t c s
  | .decodeHeader => Sys2Proof.Machine.execDecodeHeader s
  | .decodeVerlen => Sys2Proof.Machine.execDecodeVerlen s
  | .decodeSpeed => Sys2Proof.Machine.execDecodeSpeed s
  | .decodeStartAngle => Sys2Proof.Machine.execDecodeStartAngle s
  | .decodeEndAngle => Sys2Proof.Machine.execDecodeEndAngle s
  | .decodeTimestamp => Sys2Proof.Machine.execDecodeTimestamp s
  | .decodeCrc => Sys2Proof.Machine.execDecodeCrc s
  | .decodePoints => Sys2Proof.Machine.execDecodePoints s
  | .assembleAngleMin => Sys2Proof.Machine.execAssembleAngleMin s
  | .assembleAngleMax => Sys2Proof.Machine.execAssembleAngleMax s
  | .assembleWrap => Sys2Proof.Machine.execAssembleWrap s
  | .assembleAngleIncrement => Sys2Proof.Machine.execAssembleAngleIncrement s
  | .assembleRanges => Sys2Proof.Machine.execAssembleRanges s
  | .assembleIntensities => Sys2Proof.Machine.execAssembleIntensities s
  | .assembleRangeMin => Sys2Proof.Machine.execAssembleRangeMin s
  | .assembleRangeMax => Sys2Proof.Machine.execAssembleRangeMax s
  | .oIdle => Sys2Proof.Machine.execOIdle s
  | .oSkip b => Sys2Proof.Machine.execOSkip b s
  | .oStart => Sys2Proof.Machine.execOStart s
  | .oAppend b => Sys2Proof.Machine.execOAppend b s
  | .oShort len => Sys2Proof.Machine.execOShort len s
  | .oCrcReject len computed carried => Sys2Proof.Machine.execOCrcReject len computed carried s
  | .oEmpty len => Sys2Proof.Machine.execOEmpty len s
  | .oPublish F S => Sys2Proof.Machine.execOPublish F S s
  | .oEos len => Sys2Proof.Machine.execOEos len s
  | .oStop len => Sys2Proof.Machine.execOStop len s
  | .oHalted => Sys2Proof.Machine.execOHalted s
  | .oOverflow => Sys2Proof.Machine.execOOverflow s

end Sys2Proof.Machine
end

