-- ==== Sys2Proof/Machine/Step.lean ====
section
/-! DEFINITION. One step (R170): take the next input event, select the row it runs in this state (R171),
and run it. -/

namespace Sys2Proof.Machine

/-- R170, R171: the whole processing of one input event. -/
def step (s : State) : Host.Outcome State Fault Refusal :=
  exec (selectInput s.fetch.2.ctx s.fetch.1.rst s.fetch.1.ev) s.fetch.2

/-- The state in which the table word `w` is what the environment presents next (log entry 12). -/
def State.withFetchWord (s : State) (nbits w : Nat) : State := s.presentWord nbits w

end Sys2Proof.Machine
end

