-- ==== Sys2Proof/Safety.lean ====
section
/-! DEFINITION. The terms claims are stated in: the invariants of R32, the clear (closed-form) reading of a
candidate, the outputs of a run, and the cut of a byte stream at its sync bytes (R180). -/

namespace Sys2Proof.Safety

open Sys2Proof.Machine

/-! ### Invariants -/

/-- R32 (a): `st = SEEKING` if and only if `len = 0`. -/
abbrev SeekingIffEmpty (s : State) : Prop := s.st = .seeking ↔ s.buf = []

/-- R32 (b): a buffered byte at offset 0 is the sync byte. -/
abbrev StartsWithSync (s : State) : Prop := ∀ b ∈ s.buf.head?, b = Config.syncByte

/-- R32 (c): no later buffered byte is the sync byte. -/
abbrev NoInnerSync (s : State) : Prop := ∀ b ∈ s.buf.tail, b ≠ Config.syncByte

/-- R32 (d): a halted block is SEEKING with nothing buffered. -/
abbrev HaltedIsEmpty (s : State) : Prop := s.halted = true → s.st = .seeking ∧ s.buf = []

/-- R32. -/
structure Inv (s : State) : Prop where
  seeking : SeekingIffEmpty s
  header : StartsWithSync s
  inner : NoInnerSync s
  halted : HaltedIsEmpty s

/-- R25, R33: the transients hold nothing. -/
abbrev Quiet (s : State) : Prop := s.dp = Datapath.empty

/-- Two states agree on the persistent state (R20) and on the ROM. -/
abbrev SamePersistent (s t : State) : Prop :=
  s.st = t.st ∧ s.buf = t.buf ∧ s.halted = t.halted ∧ s.rom = t.rom

/-- Everything but the transients is unchanged (the frame of VALIDATE, DECODE, ASSEMBLE and their
rows). -/
abbrev OnlyTransients (s t : State) : Prop :=
  t.st = s.st ∧ t.buf = s.buf ∧ t.halted = s.halted ∧ t.rom = s.rom ∧ t.input = s.input ∧ t.out = s.out

/-! ### The clear reading of a candidate -/

/-- R67, R134: `N(L) = (L - 14 + 2) div 3` for `L >= 14`. -/
def pointCount (L : Nat) : Nat := (L - 14 + 2) / 3

/-- R66: point `k`, its three bytes at offsets 6+3k, 7+3k and 9+3k. -/
def pointView (B : List Byte) (k : Nat) : Point :=
  { distance := le16 (B.getD (6 + 3 * k) 0) (B.getD (7 + 3 * k) 0), intensity := B.getD (9 + 3 * k) 0 }

/-- R77: the DecodedFrame of a candidate of at least 14 bytes, field by field. (Every offset is inside
such a candidate, so the 0 of `getD` is never read: R135.) -/
def decodedView (B : List Byte) : DecodedFrame :=
  let L := B.length
  { header := B.getD 0 0
    verlen := B.getD 1 0
    speed := le16 (B.getD 2 0) (B.getD 3 0)
    startAngle := le16 (B.getD 4 0) (B.getD 5 0)
    endAngle := le16 (B.getD (L - 5) 0) (B.getD (L - 4) 0)
    timestamp := le16 (B.getD (L - 3) 0) (B.getD (L - 2) 0)
    crc := B.getD (L - 1) 0
    points := (List.range (pointCount L)).map (pointView B) }

/-- R148, R149: the span in hundredths of a degree. -/
def spanView (F : DecodedFrame) : Int :=
  if F.endAngle.toNat < F.startAngle.toNat then
    (F.endAngle.toNat : Int) + 36000 - (F.startAngle.toNat : Int)
  else (F.endAngle.toNat : Int) - (F.startAngle.toNat : Int)

/-- R154: the NormalizedScan of a frame with at least one point, in the exact layer. -/
def scanView (F : DecodedFrame) : NormalizedScan :=
  let d : List Nat := F.points.map fun p => p.distance.toNat
  { angleMin := ⟨(F.startAngle.toNat : Rat) / 18000⟩
    angleMax := ⟨(F.endAngle.toNat : Rat) / 18000⟩
    angleIncrement := ⟨(spanView F : Rat) / (18000 * (F.points.length : Rat))⟩
    ranges := d.map fun n => (n : Rat) / 1000
    intensities := F.points.map (·.intensity)
    rangeMin := ((d.min?.getD 0 : Nat) : Rat) / 1000
    rangeMax := ((d.max?.getD 0 : Nat) : Rat) / 1000 }

/-- R63, R66: what the fields of a frame on the wire are decoded as: point `k` is at offsets 3k, 3k+1 and
3k+3 of the point region. -/
def frameView (f : RawFrame) : DecodedFrame :=
  { header := f.header
    verlen := f.verlen
    speed := f.speed
    startAngle := f.startAngle
    endAngle := f.endAngle
    timestamp := f.timestamp
    crc := f.crc
    points := (List.range ((f.body.length - 1) / 3)).map fun k =>
      { distance := le16 (f.body.getD (3 * k) 0) (f.body.getD (3 * k + 1) 0)
        intensity := f.body.getD (3 * k + 3) 0 } }

/-- R113: `L >= 14` and the CRC of all bytes but the last equals the last. -/
abbrev Accepted (rom : Memory) (B : List Byte) : Prop :=
  14 ≤ B.length ∧ B.getLast? = some (crc8 rom B.dropLast)

/-- R173, R155: the output of a step that publishes. -/
def publication (F : DecodedFrame) (S : NormalizedScan) : Output :=
  { label := some (.publish F S)
    scan := some S
    delivered := some
      { angleMin := Config.rnd ⟨0, S.angleMin.piCoeff⟩
        angleMax := Config.rnd ⟨0, S.angleMax.piCoeff⟩
        angleIncrement := Config.rnd ⟨0, S.angleIncrement.piCoeff⟩
        ranges := S.ranges.map fun r => Config.rnd ⟨r, 0⟩
        intensities := S.intensities
        rangeMin := Config.rnd ⟨S.rangeMin, 0⟩
        rangeMax := Config.rnd ⟨S.rangeMax, 0⟩ } }

/-- R172, R173, R174, R193: the output of the step that resolves candidate `B`. -/
def resolution (rom : Memory) (B : List Byte) : Output :=
  if Accepted rom B then
    if B.length = 14 then { label := some (.empty 14) }
    else publication (decodedView B) (scanView (decodedView B))
  else { label := some (.crcReject B.length (crc8 rom B.dropLast) (B.getLastD 0)) }

/-! ### Runs -/

/-- The output of each of the first `n` steps from `s` (R178), as far as the steps answer a next state. -/
def outputs : Nat → State → List Output
  | 0, _ => []
  | n + 1, s =>
    match step s with
    | .next t => t.out :: outputs n t
    | .fault _ => []
    | .refused _ => []

/-- The state after `n` steps from `s`, if they all answer a next state. -/
def stateAfter : Nat → State → Option State
  | 0, s => some s
  | n + 1, s =>
    match step s with
    | .next t => stateAfter n t
    | .fault _ => none
    | .refused _ => none

/-- The scans published in a list of outputs, in order (R178). -/
def published (os : List Output) : List NormalizedScan := os.filterMap (·.scan)

/-- The byte events of a byte string (R74). -/
def byteEvents (W : List Byte) : List Stimulus := W.map fun b => { rst := false, ev := byteWord b }

/-- R180: `W = P0 ++ C1 ++ ... ++ Cm`, cut at every sync byte: `P0`, and `[C1, ..., Cm]`. -/
def cutAtSync : List Byte → List Byte × List (List Byte)
  | [] => ([], [])
  | b :: bs =>
    let r := cutAtSync bs
    if b = Config.syncByte then ([], (b :: r.1) :: r.2) else (b :: r.1, r.2)

/-- R180, R172, R192: what the step that closes `C` reports. -/
def closing (rom : Memory) (C : List Byte) : Output :=
  if C.length < 14 then { label := some (.short C.length) } else resolution rom C

/-- R180: the outputs of the steps that take `C1 ++ ... ++ Cm`. Those of one `Ci` are the output of its sync
byte, which is `O_START` for the first and closes `C(i-1)` for a later one, and an `O_APPEND` for each
byte after it. -/
def segmentOutputs (rom : Memory) : Output → List (List Byte) → List Output
  | _, [] => []
  | first, C :: Cs =>
    first :: (C.tail.map fun b => { label := some (.append b) }) ++ segmentOutputs rom (closing rom C) Cs

/-- R180: the outputs of a run over the byte string `W`. -/
def streamOutputs (rom : Memory) (W : List Byte) : List Output :=
  ((cutAtSync W).1.map fun b => { label := some (.skip b) }) ++
    segmentOutputs rom { label := some .start } (cutAtSync W).2

/-- R180: the scans published for `C1 .. C(m-1)`. -/
def streamScans (rom : Memory) (W : List Byte) : List NormalizedScan :=
  (cutAtSync W).2.dropLast.filterMap fun C =>
    if 15 ≤ C.length ∧ Accepted rom C then some (scanView (decodedView C)) else none

end Sys2Proof.Safety
end

