-- ==== Sys2Proof/Certificates/Slice0/Obligations.lean ====
section
/-! DEFINITION. The statements for the provers, from the numbered rules of spec/. -/

open Sys2Proof Sys2Proof.Machine Sys2Proof.Safety

/-- R33: the reset state. -/
def Obligations.ResetStateIsSeekingEmptyRunning : Prop :=
  State.reset.st = .seeking ∧ State.reset.buf = [] ∧ State.reset.halted = false ∧
    State.reset.dp = {
      cand := none, crcAcc := none, verdict := none, header := none, verlen := none, speed := none
      startAngle := none, endAngle := none, timestamp := none, crc := none, points := none
      endAdj := none, span := none, angleMin := none, angleMax := none, angleIncrement := none
      ranges := none, intensities := none, rangeMin := none, rangeMax := none }

/-- The base case of StepKeepsTheInvariants and of StepKeepsRomAndClearsTransients. Derived: R32 is marked derived in the spec. -/
def Obligations.ResetStateMeetsTheInvariants : Prop :=
  Inv State.reset ∧ Quiet State.reset ∧ State.reset.rom.wf

/-- The step is exec of the decoded row. The clause for an empty input list is the model's choice (log entry 2): nothing listed is the TIMEOUT word. -/
def Obligations.StepRunsTheDecodedInstruction : Prop :=
  (∀ (s : State) (x : Stimulus) (xs : List Stimulus) (i : Instr), s.input = x :: xs →
      decode { halted := s.halted, st := s.st, len := s.buf.length } (.event x.rst x.ev) = .ok i →
      step s = exec i { s with input := xs }) ∧
    ∀ s : State, s.input = [] →
      step s = if s.halted = true then exec .halted s else exec .idle s

/-- R171 and R61: the dispatch order, stated on the raw bits of R60. That rst comes before it is R216 (and R197); that the step takes the stimulus presented with rst is DEDUCED, log entry 15. -/
def Obligations.StepSelectsItsRowByPriority : Prop :=
  ∀ (s : State) (x : Stimulus) (xs : List Stimulus), s.input = x :: xs →
    (x.rst = true → step s = exec .reset { s with input := xs }) ∧
    (x.rst = false → s.halted = true → step s = exec .halted { s with input := xs }) ∧
    (x.rst = false → s.halted = false →
      (x.ev.getLsbD 10 = true → step s = exec .stop { s with input := xs }) ∧
      (x.ev.getLsbD 10 = false → x.ev.getLsbD 9 = true → step s = exec .eos { s with input := xs }) ∧
      (x.ev.getLsbD 10 = false → x.ev.getLsbD 9 = false → x.ev.getLsbD 8 = false →
        step s = exec .idle { s with input := xs }) ∧
      (x.ev.getLsbD 10 = false → x.ev.getLsbD 9 = false → x.ev.getLsbD 8 = true →
        ∀ b : Byte, b = x.ev.extractLsb' 0 8 →
          (b = 0x54 → s.st = .seeking → step s = exec .syncStart { s with input := xs }) ∧
          (b = 0x54 → s.st = .accumulating → 14 ≤ s.buf.length →
            step s = exec .syncEmit { s with input := xs }) ∧
          (b = 0x54 → s.st = .accumulating → s.buf.length < 14 →
            step s = exec .syncDiscard { s with input := xs }) ∧
          (b ≠ 0x54 → s.st = .seeking → step s = exec (.dataSkip b) { s with input := xs }) ∧
          (b ≠ 0x54 → s.st = .accumulating → step s = exec (.dataAppend b) { s with input := xs })))

/-- 95_test_vectors.md section 2.1 (event-word decode), V-CRC-8 and V-DEC-3 (E14), R73. -/
def Obligations.WordsDecodeAsTheSpecWritesThem : Prop :=
  classify 0x154 = .byte 0x54 ∧ classify 0x100 = .byte 0x00 ∧ classify 0x1FF = .byte 0xFF ∧
    classify 0x054 = .timeout ∧ classify 0x200 = .eos ∧ classify 0x354 = .eos ∧
    classify 0x400 = .stop ∧ classify 0x754 = .stop ∧ classify 0x600 = .stop ∧
    (∀ c : Ctx, decode c (.rawFrame14
      [0x54, 0x2C, 0x00, 0x00, 0xE8, 0x03, 0x00, 0x00, 0x00, 0xD0, 0x07, 0x00, 0x00, 0x3F]) =
        .ok (.frame14 0x2C 0 1000 0 0 0 2000 0 0x3F)) ∧
    (∀ c : Ctx, decode c (.outcome 5 (.crc 20 0x38 0xDC)) = .ok (.oCrcReject 20 0x38 0xDC)) ∧
    ∀ c : Ctx, decode c (.outcome 12 .none) = .error .reservedOutcome

/-- R73 (codes of the labels and of the O_ rows, reserved codes), R190 (classes and their codes). The error of a reserved code is U13's. -/
def Obligations.OutcomeAndFaultCodesAreTheTables : Prop :=
  (∀ (F : DecodedFrame) (S : NormalizedScan) (b k : Byte) (n : Nat),
      Label.code .idle = 0 ∧ Label.code (.skip b) = 1 ∧ Label.code .start = 2 ∧
      Label.code (.append b) = 3 ∧ Label.code (.short n) = 4 ∧ Label.code (.crcReject n b k) = 5 ∧
      Label.code (.empty n) = 6 ∧ Label.code (.publish F S) = 7 ∧ Label.code (.eos n) = 8 ∧
      Label.code (.stop n) = 9 ∧ Label.code .halted = 10 ∧ Label.code .overflow = 11 ∧
      encode .oIdle = some (.outcome 0 .none) ∧ encode (.oSkip b) = some (.outcome 1 (.byte b)) ∧
      encode .oStart = some (.outcome 2 .none) ∧ encode (.oAppend b) = some (.outcome 3 (.byte b)) ∧
      encode (.oShort n) = some (.outcome 4 (.len n)) ∧
      encode (.oCrcReject n b k) = some (.outcome 5 (.crc n b k)) ∧
      encode (.oEmpty n) = some (.outcome 6 (.len n)) ∧
      encode (.oPublish F S) = some (.outcome 7 (.scan F S)) ∧
      encode (.oEos n) = some (.outcome 8 (.len n)) ∧ encode (.oStop n) = some (.outcome 9 (.len n)) ∧
      encode .oHalted = some (.outcome 10 .none) ∧ encode .oOverflow = some (.outcome 11 .none)) ∧
    (∀ (code : BitVec 4) (p : Payload), 12 ≤ code.toNat → decodeOutcome code p = .error .reservedOutcome) ∧
    (∀ (l : Label) (c : FaultClass), l.faultClass = some c → c.code = l.code) ∧
    FaultClass.code .timeout = 0 ∧ FaultClass.code .framing = 4 ∧ FaultClass.code .crc = 5 ∧
    FaultClass.code .empty = 6

/-- Encoding round trip over all rows that have an encoding. -/
def Obligations.DecodeOfEncodeIsTheInstruction : Prop :=
  ∀ (i : Instr) (c : Ctx) (code : Code), i.wf = true → i.admits c = true → encode i = some code →
    decode c code = .ok i

/-- R63 and R66: the wire layout and DECODE agree on every field. Derived: the point count is R67's, marked derived. -/
def Obligations.DecodeGivesTheFieldsOfAFrameBack : Prop :=
  ∀ (s : State) (f : RawFrame), 3 ≤ f.body.length → s.dp.cand = some (frameBytes f) →
    exec .decode s = .next { s with dp := { s.dp with
      header := some f.header, verlen := some f.verlen, speed := some f.speed
      startAngle := some f.startAngle, endAngle := some f.endAngle, timestamp := some f.timestamp
      crc := some f.crc, points := some (frameView f).points } }

/-- R91. -/
def Obligations.SyncStartBuffersTheSyncByte : Prop :=
  ∀ s : State, s.halted = false → s.st = .seeking →
    exec .syncStart s = .next { s with
      st := .accumulating, buf := [0x54], dp := {}, out := { label := some .start } }

/-- R92. -/
def Obligations.DataSkipChangesNothing : Prop :=
  ∀ (s : State) (b : Byte), s.halted = false → s.st = .seeking → b ≠ 0x54 →
    exec (.dataSkip b) s = .next { s with dp := {}, out := { label := some (.skip b) } }

/-- R93 (the buffer is unbounded on this hardware). -/
def Obligations.DataAppendAppendsTheByte : Prop :=
  ∀ (s : State) (b : Byte), s.halted = false → s.st = .accumulating → b ≠ 0x54 →
    exec (.dataAppend b) s = .next { s with
      buf := s.buf ++ [b], dp := {}, out := { label := some (.append b) } } ∧
    memRead8 (s.buf ++ [b]) s.buf.length = some b ∧
    ∀ a : Nat, a < s.buf.length → memRead8 (s.buf ++ [b]) a = memRead8 s.buf a

/-- R95, R192. -/
def Obligations.SyncDiscardRestartsTheBuffer : Prop :=
  ∀ s : State, s.halted = false → s.st = .accumulating → s.buf.length < 14 →
    exec .syncDiscard s = .next { s with
      st := .accumulating, buf := [0x54], dp := {}, out := { label := some (.short s.buf.length) } }

/-- R96, R191. -/
def Obligations.TimeoutStepChangesNothing : Prop :=
  ∀ s : State, s.halted = false →
    exec .idle s = .next { s with dp := {}, out := { label := some .idle } }

/-- R97, R176. -/
def Obligations.EndOfStreamDiscardsAndHalts : Prop :=
  ∀ s : State, s.halted = false →
    exec .eos s = .next { s with
      st := .seeking, buf := [], halted := true, dp := {}
      out := { label := some (.eos s.buf.length), scan := none, delivered := none, eosOut := true } }

/-- R175: STOP_POLICY is immediate. -/
def Obligations.StopDiscardsAndHalts : Prop :=
  ∀ s : State, s.halted = false →
    exec .stop s = .next { s with
      st := .seeking, buf := [], halted := true, dp := {}
      out := { label := some (.stop s.buf.length), scan := none, delivered := none, eosOut := false } }

/-- R177. -/
def Obligations.HaltedRowIgnoresTheEvent : Prop :=
  ∀ s : State, s.halted = true →
    exec .halted s = .next { s with
      dp := {}, out := { label := some .halted, scan := none, delivered := none, eosOut := false } }

/-- R215, R216. That the ROM and the environment's remaining inputs are kept is R215 and R31; that the stimulus presented with rst is consumed is DEDUCED, log entry 15. -/
def Obligations.ResetOverridesEverything : Prop :=
  ∀ s : State,
    exec .reset s = .next { s with st := .seeking, buf := [], halted := false, dp := {}, out := {} } ∧
    ∀ (ev : EventWord) (xs : List Stimulus), s.input = { rst := true, ev := ev } :: xs →
      step s = .next { s with
        st := .seeking, buf := [], halted := false, dp := {}, out := {}, input := xs }

/-- R193, and R94 for the buffer. -/
def Obligations.EmitRejectsABadCrc : Prop :=
  ∀ (s : State) (M : List Byte) (k : Byte), s.halted = false → s.st = .accumulating →
    s.buf = M ++ [k] → 13 ≤ M.length → crc8 s.rom M ≠ k →
    exec .syncEmit s = .next { s with
      buf := [0x54], dp := {}
      out := { label := some (.crcReject (M.length + 1) (crc8 s.rom M) k)
               scan := none, delivered := none, eosOut := false } }

/-- R194, and R174's corner case L = 14. -/
def Obligations.EmitSkipsAnEmptyFrame : Prop :=
  ∀ (s : State) (M : List Byte) (k : Byte), s.halted = false → s.st = .accumulating →
    s.buf = M ++ [k] → M.length = 13 → crc8 s.rom M = k →
    exec .syncEmit s = .next { s with
      buf := [0x54], dp := {}
      out := { label := some (.empty 14), scan := none, delivered := none, eosOut := false } }

/-- R94, R172 to R174 composed, with the closed forms of R77 and R154. Derived: that L >= 15 has points is marked derived in R174. -/
def Obligations.EmitPublishesAnAcceptedFrame : Prop :=
  ∀ (s : State) (M : List Byte) (k : Byte), s.halted = false → s.st = .accumulating →
    s.buf = M ++ [k] → 14 ≤ M.length → crc8 s.rom M = k →
    exec .syncEmit s = .next { s with
      buf := [0x54], dp := {}
      out := publication (decodedView s.buf) (scanView (decodedView s.buf)) }

/-- R94, R172: the order of the resolution, in terms of exec of the internal rows. VALIDATE's result is read from the model's transient verdict (DESIGN CHOICE, log entry 14). -/
def Obligations.EmitRunsTheInternalRowsInOrder : Prop :=
  ∀ s : State, s.halted = false → s.st = .accumulating → 14 ≤ s.buf.length →
    ∃ s1, exec .validate { s with buf := [0x54], dp := { cand := some s.buf }, out := {} } = .next s1 ∧
      (s1.dp.verdict = some false →
        ∃ computed carried, s1.dp.crcAcc = some computed ∧ s.buf.getLast? = some carried ∧
          exec .syncEmit s = .next { s1 with
            dp := {}, out := { label := some (.crcReject s.buf.length computed carried) } }) ∧
      (s1.dp.verdict = some true →
        ∃ s2 s3, exec .decode s1 = .next s2 ∧ exec .emptyGuard s2 = .next s3 ∧
          (s2.dp.points = some [] → exec .syncEmit s = .next { s3 with dp := {} }) ∧
          (s2.dp.points ≠ some [] →
            ∃ s4 s5, exec .assemble s3 = .next s4 ∧ exec .publish s4 = .next s5 ∧
              exec .syncEmit s = .next { s5 with dp := {} })) ∧
      (s1.dp.verdict = some false ∨ s1.dp.verdict = some true)

/-- The model's choice (log entry 1). -/
def Obligations.EventRowsRefuseOutsideTheirCondition : Prop :=
  ∀ (s : State) (i : Instr),
    (i = .halted ∨ i = .stop ∨ i = .eos ∨ i = .idle ∨ i = .syncStart ∨ i = .syncEmit ∨ i = .syncDiscard ∨
      (∃ b, i = .dataSkip b) ∨ ∃ b, i = .dataAppend b) →
    i.admits { halted := s.halted, st := s.st, len := s.buf.length } = false →
    exec i s = .refused .notSelected

/-- R110 to R113. The verdict is held in a transient of the model's own (DESIGN CHOICE, log entry 14), and that a short buffer leaves crc_acc as it was is DEDUCED (log entry 13). -/
def Obligations.ValidateComparesTheCrcOfAllButTheLastByte : Prop :=
  (∀ (s : State) (B : List Byte), s.dp.cand = some B → B.length < 14 →
      exec .validate s = .next { s with dp := { s.dp with verdict := some false } }) ∧
    (∀ (s : State) (M : List Byte) (k : Byte), s.dp.cand = some (M ++ [k]) → 13 ≤ M.length →
      exec .validate s = .next { s with dp := { s.dp with
        crcAcc := some (crc8 s.rom M), verdict := some (decide (crc8 s.rom M = k)) } }) ∧
    ∀ (rom : Memory), crc8 rom [] = 0 ∧
      ∀ (M : List Byte) (b : Byte), crc8 rom (M ++ [b]) = rom.read (crc8 rom M ^^^ b)

/-- R116, marked derived in the spec; the table is any injective one. The verdict is the model's transient (log entry 14). -/
def Obligations.SingleByteChangeIsRejected : Prop :=
  ∀ (s t : State) (B : List Byte) (j : Nat) (v : Byte), Function.Injective s.rom.read →
    s.dp.cand = some B → exec .validate s = .next t → t.dp.verdict = some true →
    j < B.length → B[j]? ≠ some v →
    ∃ u, exec .validate { s with dp := { s.dp with cand := some (B.set j v) } } = .next u ∧
      u.dp.verdict = some false

/-- R125 to R133. -/
def Obligations.DecodeFillsEveryField : Prop :=
  ∀ (s : State) (B : List Byte), s.dp.cand = some B → 14 ≤ B.length →
    exec .decode s = .next { s with dp := { s.dp with
      header := some (B.getD 0 0), verlen := some (B.getD 1 0)
      speed := some (le16 (B.getD 2 0) (B.getD 3 0))
      startAngle := some (le16 (B.getD 4 0) (B.getD 5 0))
      endAngle := some (le16 (B.getD (B.length - 5) 0) (B.getD (B.length - 4) 0))
      timestamp := some (le16 (B.getD (B.length - 3) 0) (B.getD (B.length - 2) 0))
      crc := some (B.getD (B.length - 1) 0)
      points := some ((List.range (pointCount B.length)).map fun k =>
        { distance := le16 (B.getD (6 + 3 * k) 0) (B.getD (7 + 3 * k) 0)
          intensity := B.getD (9 + 3 * k) 0 }) } } ∧
    ∀ k : Nat, k < pointCount B.length ↔ 6 + 3 * k < B.length - 8

/-- R126, R127, R132. -/
def Obligations.ByteFieldRowsReadTheirByte : Prop :=
  ∀ (s : State) (B : List Byte), s.dp.cand = some B → 14 ≤ B.length →
    exec .decodeHeader s = .next { s with dp := { s.dp with header := B[0]? } } ∧
    exec .decodeVerlen s = .next { s with dp := { s.dp with verlen := B[1]? } } ∧
    exec .decodeCrc s = .next { s with dp := { s.dp with crc := B[B.length - 1]? } }

/-- R128 to R131, with R8's formula written out. -/
def Obligations.WordFieldRowsReadLittleEndian : Prop :=
  ∀ (s : State) (B : List Byte) (b0 b1 : Byte), s.dp.cand = some B → 14 ≤ B.length →
    (B[2]? = some b0 → B[3]? = some b1 → exec .decodeSpeed s = .next { s with dp := { s.dp with
      speed := some (BitVec.ofNat 16 (b0.toNat + 256 * b1.toNat)) } }) ∧
    (B[4]? = some b0 → B[5]? = some b1 → exec .decodeStartAngle s = .next { s with dp := { s.dp with
      startAngle := some (BitVec.ofNat 16 (b0.toNat + 256 * b1.toNat)) } }) ∧
    (B[B.length - 5]? = some b0 → B[B.length - 4]? = some b1 →
      exec .decodeEndAngle s = .next { s with dp := { s.dp with
        endAngle := some (BitVec.ofNat 16 (b0.toNat + 256 * b1.toNat)) } }) ∧
    (B[B.length - 3]? = some b0 → B[B.length - 2]? = some b1 →
      exec .decodeTimestamp s = .next { s with dp := { s.dp with
        timestamp := some (BitVec.ofNat 16 (b0.toNat + 256 * b1.toNat)) } })

/-- R133 with R134's count, which the spec marks derived. -/
def Obligations.PointsRowExtractsEveryStride : Prop :=
  ∀ (s : State) (B : List Byte), s.dp.cand = some B → 14 ≤ B.length →
    ∃ ps : List Point, exec .decodePoints s = .next { s with dp := { s.dp with points := some ps } } ∧
      ps.length = (B.length - 12) / 3 ∧
      ∀ (k : Nat) (b0 b1 x : Byte), 6 + 3 * k < B.length - 8 →
        B[6 + 3 * k]? = some b0 → B[6 + 3 * k + 1]? = some b1 → B[6 + 3 * k + 3]? = some x →
        ps[k]? = some { distance := le16 b0 b1, intensity := x }

/-- R125. That the refusal covers each field row is log entry 13. -/
def Obligations.DecodeRefusesFewerThan14Bytes : Prop :=
  ∀ (s : State) (B : List Byte), s.dp.cand = some B → B.length < 14 →
    ∀ i : Instr, i = .decode ∨ i = .decodeHeader ∨ i = .decodeVerlen ∨ i = .decodeSpeed ∨
      i = .decodeStartAngle ∨ i = .decodeEndAngle ∨ i = .decodeTimestamp ∨ i = .decodeCrc ∨
      i = .decodePoints → exec i s = .refused .decodeTooShort

/-- R33: "a model must not let any rule read one before the step has written it". That it is a refusal is log entry 5. -/
def Obligations.RowsRefuseATransientWithoutAValue : Prop :=
  ∀ s : State,
    (s.dp.cand = none → ∀ i : Instr, i = .validate ∨ i = .decode ∨ i = .decodeHeader ∨ i = .decodeVerlen ∨
      i = .decodeSpeed ∨ i = .decodeStartAngle ∨ i = .decodeEndAngle ∨ i = .decodeTimestamp ∨
      i = .decodeCrc ∨ i = .decodePoints ∨ i = .emptyGuard → exec i s = .refused .transientNoValue) ∧
    (s.dp.startAngle = none ∨ s.dp.endAngle = none → s.dp.points ≠ some [] →
      exec .assemble s = .refused .transientNoValue) ∧
    (s.dp.points = none → ∀ i : Instr, i = .emptyGuard ∨ i = .assemble ∨ i = .assembleAngleIncrement ∨
      i = .assembleRanges ∨ i = .assembleIntensities → exec i s = .refused .transientNoValue) ∧
    (s.dp.startAngle = none → ∀ i : Instr, i = .assembleAngleMin ∨ i = .assembleWrap ∨
      i = .assembleAngleIncrement → exec i s = .refused .transientNoValue) ∧
    (s.dp.endAngle = none → ∀ i : Instr, i = .assembleAngleMax ∨ i = .assembleWrap →
      exec i s = .refused .transientNoValue) ∧
    (s.dp.endAdj = none → exec .assembleAngleIncrement s = .refused .transientNoValue) ∧
    (s.dp.ranges = none → ∀ i : Instr, i = .assembleRangeMin ∨ i = .assembleRangeMax →
      exec i s = .refused .transientNoValue) ∧
    (s.dp.header = none ∨ s.dp.verlen = none ∨ s.dp.speed = none ∨ s.dp.startAngle = none ∨
      s.dp.endAngle = none ∨ s.dp.timestamp = none ∨ s.dp.crc = none ∨ s.dp.points = none ∨
      s.dp.angleMin = none ∨ s.dp.angleMax = none ∨ s.dp.angleIncrement = none ∨ s.dp.ranges = none ∨
      s.dp.intensities = none ∨ s.dp.rangeMin = none ∨ s.dp.rangeMax = none →
      exec .publish s = .refused .transientNoValue)

/-- R68, marked derived in the spec. -/
def Obligations.UnreadBytesDoNotReachTheDecodedFrame : Prop :=
  ∀ (s : State) (B C : List Byte), B.length = C.length → 14 ≤ B.length →
    (∀ a : Nat, a < 6 ∨ (B.length - 5 ≤ a ∧ a < B.length) ∨
      (∃ k, 6 + 3 * k < B.length - 8 ∧ (a = 6 + 3 * k ∨ a = 7 + 3 * k ∨ a = 9 + 3 * k)) →
      B[a]? = C[a]?) →
    ∃ d : Datapath,
      exec .decode { s with dp := { s.dp with cand := some B } } = .next { s with dp := { d with cand := some B } } ∧
      exec .decode { s with dp := { s.dp with cand := some C } } = .next { s with dp := { d with cand := some C } }

/-- R146, R147; an angle is held as its coefficient of PI (R154). -/
def Obligations.AngleBoundsAreTheDecodedAnglesInRadians : Prop :=
  ∀ (t : State) (s e : U16),
    (t.dp.startAngle = some s → exec .assembleAngleMin t = .next { t with dp := { t.dp with
      angleMin := some ⟨(s.toNat : Rat) / 18000⟩ } }) ∧
    (t.dp.endAngle = some e → exec .assembleAngleMax t = .next { t with dp := { t.dp with
      angleMax := some ⟨(e.toNat : Rat) / 18000⟩ } })

/-- R148; the span is R149's, and that ASSEMBLE.wrap writes it too, as the table's row has it, is DEDUCED (log entry 18). -/
def Obligations.WrapCorrectionIsOnNaturals : Prop :=
  ∀ (t : State) (s e : U16), t.dp.startAngle = some s → t.dp.endAngle = some e →
    (e.toNat < s.toNat → exec .assembleWrap t = .next { t with dp := { t.dp with
      endAdj := some (e.toNat + 36000), span := some ((e.toNat : Int) + 36000 - (s.toNat : Int)) } }) ∧
    (s.toNat ≤ e.toNat → exec .assembleWrap t = .next { t with dp := { t.dp with
      endAdj := some e.toNat, span := some ((e.toNat : Int) - (s.toNat : Int)) } })

/-- R156, marked derived in the spec. That ASSEMBLE.wrap writes span is log entry 18. -/
def Obligations.WrapIntermediatesStayInRange : Prop :=
  ∀ (t : State) (s e : U16), t.dp.startAngle = some s → t.dp.endAngle = some e →
    ∃ (u : State) (adj : Nat) (span : Int), exec .assembleWrap t = .next u ∧ u.dp.endAdj = some adj ∧
      u.dp.span = some span ∧ adj ≤ 101534 ∧ -29535 ≤ span ∧ span ≤ 65535 ∧
      (s.toNat ≤ 35999 → e.toNat ≤ 35999 → adj ≤ 71998 ∧ 0 ≤ span ∧ span ≤ 35999)

/-- R149. -/
def Obligations.AngleIncrementDividesTheSpanByTheCount : Prop :=
  ∀ (t : State) (s : U16) (adj : Nat) (ps : List Point), t.dp.startAngle = some s →
    t.dp.endAdj = some adj → t.dp.points = some ps → ps ≠ [] →
    exec .assembleAngleIncrement t = .next { t with dp := { t.dp with
      span := some ((adj : Int) - (s.toNat : Int))
      angleIncrement := some ⟨((adj : Rat) - (s.toNat : Rat)) / (18000 * (ps.length : Rat))⟩ } }

/-- R150, R151. -/
def Obligations.RangesAndIntensitiesAreElementwise : Prop :=
  ∀ (t : State) (ps : List Point), t.dp.points = some ps →
    exec .assembleRanges t = .next { t with dp := { t.dp with
      ranges := some (ps.map fun p => (p.distance.toNat : Rat) / 1000) } } ∧
    exec .assembleIntensities t = .next { t with dp := { t.dp with
      intensities := some (ps.map fun p => p.intensity) } }

/-- R152, R153. -/
def Obligations.RangeBoundsAreTheLeastAndGreatestRange : Prop :=
  ∀ (t : State) (rs : List Rat), t.dp.ranges = some rs → rs ≠ [] →
    ∃ m M : Rat,
      exec .assembleRangeMin t = .next { t with dp := { t.dp with rangeMin := some m } } ∧
      exec .assembleRangeMax t = .next { t with dp := { t.dp with rangeMax := some M } } ∧
      m ∈ rs ∧ M ∈ rs ∧ ∀ r ∈ rs, m ≤ r ∧ r ≤ M

/-- R145 to R153, in the closed forms of R154. -/
def Obligations.AssembleFillsTheScan : Prop :=
  (∀ (t : State) (F : DecodedFrame), t.dp.startAngle = some F.startAngle →
    t.dp.endAngle = some F.endAngle → t.dp.points = some F.points → F.points ≠ [] →
    exec .assemble t = .next { t with dp := { t.dp with
      endAdj := some (if F.endAngle.toNat < F.startAngle.toNat then F.endAngle.toNat + 36000
        else F.endAngle.toNat)
      span := some (spanView F)
      angleMin := some (scanView F).angleMin
      angleMax := some (scanView F).angleMax
      angleIncrement := some (scanView F).angleIncrement
      ranges := some (scanView F).ranges
      intensities := some (scanView F).intensities
      rangeMin := some (scanView F).rangeMin
      rangeMax := some (scanView F).rangeMax } }) ∧
    ∀ t : State, t.dp.points = some [] → exec .assemble t = .refused .assembleEmpty

/-- U1. That the refusal of the single rows is limited to these three is log entry 13. -/
def Obligations.OutputRowsRefuseNoPoints : Prop :=
  ∀ t : State,
    (t.dp.points = some [] → t.dp.startAngle ≠ none → t.dp.endAdj ≠ none →
      exec .assembleAngleIncrement t = .refused .assembleEmpty) ∧
    (t.dp.ranges = some [] → exec .assembleRangeMin t = .refused .assembleEmpty ∧
      exec .assembleRangeMax t = .refused .assembleEmpty)

/-- R157, marked derived in the spec. -/
def Obligations.IncrementIsNonNegativeForAnglesInRange : Prop :=
  ∀ (t : State) (s e : U16) (ps : List Point), t.dp.startAngle = some s → t.dp.endAngle = some e →
    t.dp.points = some ps → ps ≠ [] → s.toNat ≤ 35999 → e.toNat ≤ 35999 →
    ∃ (u : State) (a : Angle), exec .assemble t = .next u ∧ u.dp.angleIncrement = some a ∧
      0 ≤ a.piCoeff ∧ (a.piCoeff = 0 ↔ e = s)

/-- R174's guard. Derived: that the guard does nothing when there are points is log entry 16. -/
def Obligations.EmptyGuardFiresExactlyWithoutPoints : Prop :=
  ∀ (s : State) (B : List Byte) (ps : List Point), s.dp.cand = some B → s.dp.points = some ps →
    (ps = [] → exec .emptyGuard s = .next { s with
      out := { label := some (.empty B.length), scan := none, delivered := none, eosOut := false } }) ∧
    (ps ≠ [] → exec .emptyGuard s = .next s)

/-- R173, R155. Nothing is said of what rnd is. -/
def Obligations.PublishDeliversTheWholeRecord : Prop :=
  ∀ (s : State) (F : DecodedFrame) (S : NormalizedScan),
    s.dp.header = some F.header → s.dp.verlen = some F.verlen → s.dp.speed = some F.speed →
    s.dp.startAngle = some F.startAngle → s.dp.endAngle = some F.endAngle →
    s.dp.timestamp = some F.timestamp → s.dp.crc = some F.crc → s.dp.points = some F.points →
    s.dp.angleMin = some S.angleMin → s.dp.angleMax = some S.angleMax →
    s.dp.angleIncrement = some S.angleIncrement → s.dp.ranges = some S.ranges →
    s.dp.intensities = some S.intensities → s.dp.rangeMin = some S.rangeMin →
    s.dp.rangeMax = some S.rangeMax →
    exec .publish s = .next { s with out := publication F S }

/-- R155: rnd is a function of the real value; the representation is the model's (log entry 4). -/
def Obligations.ExactValuesAreFaithfulToTheReals : Prop :=
  ∀ x y : Exact,
    ((x.rational : ℝ) + (x.piCoeff : ℝ) * Real.pi = (y.rational : ℝ) + (y.piCoeff : ℝ) * Real.pi) ↔ x = y

/-- The layout is R63's and R64's; that running the row presents the bytes is the model's choice (log entry 7). -/
def Obligations.FrameRowsPresentTheirBytes : Prop :=
  (∀ (s : State) (f : RawFrame), exec (.frame f) s = .next { s with
      input := byteEvents ([f.header, f.verlen, lo f.speed, hi f.speed, lo f.startAngle, hi f.startAngle] ++
        f.body ++ [lo f.endAngle, hi f.endAngle, lo f.timestamp, hi f.timestamp, f.crc]) ++ s.input }) ∧
    ∀ (s : State) (v x6 x7 x8 k : Byte) (sp a e t : U16),
      exec (.frame14 v sp a x6 x7 x8 e t k) s = .next { s with
        input := byteEvents [0x54, v, lo sp, hi sp, lo a, hi a, x6, x7, x8, lo e, hi e, lo t, hi t, k] ++
          s.input }

/-- R10's `outcome <- X` with the labels and codes of R73; running an OUTCOME row as this operation is the model's choice (log entry 8). -/
def Obligations.OutcomeRowsWriteTheirLabel : Prop :=
  ∀ (s : State) (b k : Byte) (n : Nat) (F : DecodedFrame) (S : NormalizedScan) (i : Instr) (l : Label),
    (i = .oIdle ∧ l = .idle) ∨ (i = .oSkip b ∧ l = .skip b) ∨ (i = .oStart ∧ l = .start) ∨
      (i = .oAppend b ∧ l = .append b) ∨ (i = .oShort n ∧ l = .short n) ∨
      (i = .oCrcReject n b k ∧ l = .crcReject n b k) ∨ (i = .oEmpty n ∧ l = .empty n) ∨
      (i = .oPublish F S ∧ l = .publish F S) ∨ (i = .oEos n ∧ l = .eos n) ∨
      (i = .oStop n ∧ l = .stop n) ∨ (i = .oHalted ∧ l = .halted) →
    exec i s = .next { s with out := { s.out with label := some l } } ∧
      ∃ p : Payload, encode i = some (.outcome l.code p)

/-- R208: O_OVERFLOW is a fault of the model, and this hardware's buffer is unbounded. -/
def Obligations.OverflowIsAFaultOfTheModel : Prop :=
  (∀ s : State, exec .oOverflow s = .fault .bufferOverflow) ∧
    ∀ s : State, step s ≠ .fault .bufferOverflow

/-- R195 (and the totality of R171, R98). -/
def Obligations.StepNeverStops : Prop :=
  ∀ s : State, ∃ t : State, step s = .next t ∧ t.rom = s.rom ∧
    (t.halted = true → s.halted = true ∨
      ∃ x xs, s.input = x :: xs ∧ (x.ev.getLsbD 10 = true ∨ x.ev.getLsbD 9 = true)) ∧
    ∀ (l : Label) (c : FaultClass), t.out.label = some l → l.faultClass = some c → t.halted = false

/-- R32, marked derived in the spec; it is stated from every state that meets it. -/
def Obligations.StepKeepsTheInvariants : Prop :=
  ∀ s t : State, Inv s → step s = .next t → Inv t

/-- R47 and R30 (nobody writes the ROM), R25 (transients hold nothing after the step), R51 (input consumed once, in order). -/
def Obligations.StepKeepsRomAndClearsTransients : Prop :=
  ∀ s t : State, step s = .next t →
    t.rom = s.rom ∧ (s.rom.wf → t.rom.wf) ∧ Quiet t ∧ t.input = s.input.tail

/-- R173's contract and corner case (marked derived in the spec), from every state. -/
def Obligations.PublishNeedsAnAcceptedFrameAtASyncByte : Prop :=
  ∀ (s t : State) (S : NormalizedScan), step s = .next t → t.out.scan = some S →
    s.halted = false ∧ s.st = .accumulating ∧ (∃ xs, s.input = { rst := false, ev := 0x154 } :: xs) ∧
      (∃ (M : List Byte) (k : Byte), s.buf = M ++ [k] ∧ 14 ≤ M.length ∧ crc8 s.rom M = k) ∧
      S = scanView (decodedView s.buf) ∧ t.out.label = some (.publish (decodedView s.buf) S)

/-- 95_test_vectors.md, properties worth proving; R150 to R153. -/
def Obligations.PublishedScansAreAlignedAndBounded : Prop :=
  ∀ (s t : State) (S : NormalizedScan), step s = .next t → t.out.scan = some S →
    S.ranges ≠ [] ∧ S.intensities.length = S.ranges.length ∧ S.rangeMin ∈ S.ranges ∧ S.rangeMax ∈ S.ranges ∧
      ∀ r ∈ S.ranges, S.rangeMin ≤ r ∧ r ≤ S.rangeMax

/-- R100, marked derived in the spec. -/
def Obligations.SeekingIsLeftOnce : Prop :=
  ∀ s t : State, s.halted = false → s.st = .accumulating → step s = .next t →
    (t.halted = false ∧ t.st = .accumulating) ∨
      ∃ x xs, s.input = x :: xs ∧ (x.rst = true ∨ x.ev.getLsbD 10 = true ∨ x.ev.getLsbD 9 = true)

/-- R177, R23. -/
def Obligations.HaltedIgnoresEveryEventUntilReset : Prop :=
  ∀ (n : Nat) (s : State), s.halted = true → (∀ x ∈ s.input, x.rst = false) →
    outputs n s = List.replicate n { label := some .halted, scan := none, delivered := none, eosOut := false } ∧
      ∃ t, stateAfter n s = some t ∧ SamePersistent s t

/-- R179, whose last sentence is marked derived in the spec. -/
def Obligations.OutputDependsOnEventAndPersistentStateOnly : Prop :=
  ∀ s t : State, SamePersistent s t → s.input.head? = t.input.head? →
    ∃ s' t' : State, step s = .next s' ∧ step t = .next t' ∧ SamePersistent s' t' ∧ s'.out = t'.out

/-- R179, marked derived in the spec. -/
def Obligations.TimeoutsCanBeInsertedAnywhere : Prop :=
  ∀ (s : State) (xs ys : List Stimulus) (x : Stimulus), x.rst = false → x.ev &&& 0x700 = 0 →
    s.input = xs ++ ys →
    ∃ (os ps : List Output) (o : Output) (v t u : State), os.length = xs.length ∧
      stateAfter xs.length s = some v ∧
      o = { label := some (if v.halted = true then .halted else .idle) } ∧
      outputs (xs.length + ys.length) s = os ++ ps ∧
      outputs (xs.length + 1 + ys.length) { s with input := xs ++ x :: ys } = os ++ o :: ps ∧
      stateAfter (xs.length + ys.length) s = some t ∧
      stateAfter (xs.length + 1 + ys.length) { s with input := xs ++ x :: ys } = some u ∧
      SamePersistent t u

/-- R180, marked derived in the spec. -/
def Obligations.RunOverAByteStringIsTheCutAtItsSyncBytes : Prop :=
  ∀ (s : State) (W : List Byte) (rest : List Stimulus), s.halted = false → s.st = .seeking → s.buf = [] →
    s.input = byteEvents W ++ rest →
    outputs W.length s = streamOutputs s.rom W ∧
      published (outputs W.length s) = streamScans s.rom W ∧
      ∃ t, stateAfter W.length s = some t ∧ t.halted = false ∧ t.input = rest ∧
        t.buf = (cutAtSync W).2.getLastD []

/-- R159 and R199, marked derived in the spec. -/
def Obligations.ATransmittedFrameIsPublished : Prop :=
  ∀ (s : State) (f : RawFrame) (rest : List Stimulus), s.halted = false → f.header = 0x54 →
    4 ≤ f.body.length → (∀ b ∈ (frameBytes f).tail, b ≠ 0x54) →
    f.crc = crc8 s.rom (frameBytes f).dropLast →
    s.input = byteEvents (frameBytes f ++ [0x54]) ++ rest →
    (outputs (f.body.length + 12) s).getLast? =
      some (publication (frameView f) (scanView (frameView f)))
end

