-- ==== Sys2Proof/Laws/Decode.lean ====
section
/-! SUPPORT. The byte order, the classification of event words and the selection of rows. -/

namespace Sys2Proof

/-- R8. -/
theorem le16_toNat (b0 b1 : Byte) : (le16 b0 b1).toNat = b0.toNat + 256 * b1.toNat := by
  have h0 := b0.isLt
  have h1 := b1.isLt
  simp only [le16, BitVec.toNat_ofNat]
  omega

theorem lo_toNat (v : U16) : (lo v).toNat = v.toNat % 256 := by
  simp only [lo, BitVec.toNat_ofNat]
  omega

theorem hi_toNat (v : U16) : (hi v).toNat = v.toNat / 256 := by
  have h := v.isLt
  simp only [hi, BitVec.toNat_ofNat]
  omega

@[simp] theorem le16_lo_hi (v : U16) : le16 (lo v) (hi v) = v := by
  apply BitVec.eq_of_toNat_eq
  rw [le16_toNat, lo_toNat, hi_toNat]
  omega

@[simp] theorem lo_le16 (b0 b1 : Byte) : lo (le16 b0 b1) = b0 := by
  have h0 := b0.isLt
  apply BitVec.eq_of_toNat_eq
  rw [lo_toNat, le16_toNat]
  omega

@[simp] theorem hi_le16 (b0 b1 : Byte) : hi (le16 b0 b1) = b1 := by
  have h0 := b0.isLt
  apply BitVec.eq_of_toNat_eq
  rw [hi_toNat, le16_toNat]
  omega

/-! The match column of the table: `0x400`, `0x200`, `0x000`, `0x154`, in the normal form of literals. -/

@[simp] theorem classify_stop : classify 1024#11 = .stop := by decide
@[simp] theorem classify_eos : classify 512#11 = .eos := by decide
@[simp] theorem classify_timeout : classify 0#11 = .timeout := by decide
@[simp] theorem classify_sync : classify 340#11 = .byte Config.syncByte := by decide

/-- The event word of a byte is classified as that byte. -/
@[simp] theorem classify_byteWord (b : Byte) : classify (byteWord b) = .byte b := by
  revert b
  decide

/-- R98: the row a byte selects is one whose condition holds. -/
theorem selectByte_admits (c : Ctx) (b : Byte) (h : c.halted = false) :
    (selectByte c b).admits c = true := by
  unfold selectByte
  by_cases hb : b = Config.syncByte
  · cases hst : c.st
    · simp [hb, Instr.admits, h, hst]
    · by_cases hl : Config.minLen ≤ c.len
      · simp [hb, Instr.admits, h, hst, hl]
      · simp [hb, hl, Instr.admits, h, hst]
        omega
  · cases hst : c.st <;> simp [hb, Instr.admits, h, hst]

/-- R171: the row a step selects is one whose condition holds, whatever the input. -/
theorem selectInput_admits (c : Ctx) (rst : Bool) (ev : EventWord) :
    (selectInput c rst ev).admits c = true := by
  unfold selectInput selectEvent
  cases rst
  · cases hh : c.halted
    · cases classify ev with
      | byte b => simpa using selectByte_admits c b hh
      | _ => simp [Instr.admits, hh]
    · simp [Instr.admits, hh]
  · simp [Instr.admits]

theorem frameBytes_length (f : RawFrame) : (frameBytes f).length = f.body.length + 11 := by
  simp [frameBytes]

/-- R63: cutting the bytes of a frame gives its fields back. -/
theorem decodeFrame_frameBytes (f : RawFrame) (hh : f.header = Config.syncByte)
    (hb : 3 ≤ f.body.length) : decodeFrame (frameBytes f) = .ok (.frame f) := by
  have hl : ¬ (frameBytes f).length < Config.minLen := by
    rw [frameBytes_length]
    show ¬ _ < 14
    omega
  unfold decodeFrame
  rw [if_neg hl]
  obtain ⟨h, v, s, a, body, e, t, c⟩ := f
  simp only at hh
  simp [frameBytes, hh]

end Sys2Proof
end

