-- ==== Sys2Proof/Laws/State.lean ====
section
/-! SUPPORT. What each state operation does to each field, one lemma per field, so that no later proof unfolds
a record update. -/

namespace Sys2Proof.Machine

variable (s : State)

@[simp] theorem State.setLabel_st (l : Label) : (s.setLabel l).st = s.st := rfl
@[simp] theorem State.setLabel_buf (l : Label) : (s.setLabel l).buf = s.buf := rfl
@[simp] theorem State.setLabel_halted (l : Label) : (s.setLabel l).halted = s.halted := rfl
@[simp] theorem State.setLabel_rom (l : Label) : (s.setLabel l).rom = s.rom := rfl
@[simp] theorem State.setLabel_dp (l : Label) : (s.setLabel l).dp = s.dp := rfl
@[simp] theorem State.setLabel_input (l : Label) : (s.setLabel l).input = s.input := rfl
@[simp] theorem State.setLabel_out (l : Label) : (s.setLabel l).out = { s.out with label := some l } := rfl

@[simp] theorem State.raise_st (l : Label) : (s.raise l).st = s.st := rfl
@[simp] theorem State.raise_buf (l : Label) : (s.raise l).buf = s.buf := rfl
@[simp] theorem State.raise_halted (l : Label) : (s.raise l).halted = s.halted := rfl
@[simp] theorem State.raise_rom (l : Label) : (s.raise l).rom = s.rom := rfl
@[simp] theorem State.raise_dp (l : Label) : (s.raise l).dp = s.dp := rfl
@[simp] theorem State.raise_input (l : Label) : (s.raise l).input = s.input := rfl
@[simp] theorem State.raise_out (l : Label) : (s.raise l).out = { label := some l } := rfl

@[simp] theorem State.bufAppend_st (b : Byte) : (s.bufAppend b).st = s.st := rfl
@[simp] theorem State.bufAppend_buf (b : Byte) : (s.bufAppend b).buf = s.buf ++ [b] := rfl
@[simp] theorem State.bufAppend_halted (b : Byte) : (s.bufAppend b).halted = s.halted := rfl
@[simp] theorem State.bufAppend_rom (b : Byte) : (s.bufAppend b).rom = s.rom := rfl
@[simp] theorem State.bufAppend_dp (b : Byte) : (s.bufAppend b).dp = s.dp := rfl
@[simp] theorem State.bufAppend_input (b : Byte) : (s.bufAppend b).input = s.input := rfl
@[simp] theorem State.bufAppend_out (b : Byte) : (s.bufAppend b).out = s.out := rfl

@[simp] theorem State.bufRestart_st : (s.bufRestart).st = .accumulating := rfl
@[simp] theorem State.bufRestart_buf : (s.bufRestart).buf = [Config.syncByte] := rfl
@[simp] theorem State.bufRestart_halted : (s.bufRestart).halted = s.halted := rfl
@[simp] theorem State.bufRestart_rom : (s.bufRestart).rom = s.rom := rfl
@[simp] theorem State.bufRestart_dp : (s.bufRestart).dp = s.dp := rfl
@[simp] theorem State.bufRestart_input : (s.bufRestart).input = s.input := rfl
@[simp] theorem State.bufRestart_out : (s.bufRestart).out = s.out := rfl

@[simp] theorem State.terminate_st : (s.terminate).st = .seeking := rfl
@[simp] theorem State.terminate_buf : (s.terminate).buf = [] := rfl
@[simp] theorem State.terminate_halted : (s.terminate).halted = true := rfl
@[simp] theorem State.terminate_rom : (s.terminate).rom = s.rom := rfl
@[simp] theorem State.terminate_dp : (s.terminate).dp = s.dp := rfl
@[simp] theorem State.terminate_input : (s.terminate).input = s.input := rfl
@[simp] theorem State.terminate_out : (s.terminate).out = s.out := rfl

@[simp] theorem State.beginStep_st : (s.beginStep).st = s.st := rfl
@[simp] theorem State.beginStep_buf : (s.beginStep).buf = s.buf := rfl
@[simp] theorem State.beginStep_halted : (s.beginStep).halted = s.halted := rfl
@[simp] theorem State.beginStep_rom : (s.beginStep).rom = s.rom := rfl
@[simp] theorem State.beginStep_dp : (s.beginStep).dp = .empty := rfl
@[simp] theorem State.beginStep_input : (s.beginStep).input = s.input := rfl
@[simp] theorem State.beginStep_out : (s.beginStep).out = {} := rfl

@[simp] theorem State.endStep_st : (s.endStep).st = s.st := rfl
@[simp] theorem State.endStep_buf : (s.endStep).buf = s.buf := rfl
@[simp] theorem State.endStep_halted : (s.endStep).halted = s.halted := rfl
@[simp] theorem State.endStep_rom : (s.endStep).rom = s.rom := rfl
@[simp] theorem State.endStep_dp : (s.endStep).dp = .empty := rfl
@[simp] theorem State.endStep_input : (s.endStep).input = s.input := rfl
@[simp] theorem State.endStep_out : (s.endStep).out = s.out := rfl

@[simp] theorem State.emitCandidate_st : (s.emitCandidate).st = .accumulating := rfl
@[simp] theorem State.emitCandidate_buf : (s.emitCandidate).buf = [Config.syncByte] := rfl
@[simp] theorem State.emitCandidate_halted : (s.emitCandidate).halted = s.halted := rfl
@[simp] theorem State.emitCandidate_rom : (s.emitCandidate).rom = s.rom := rfl
@[simp] theorem State.emitCandidate_dp : (s.emitCandidate).dp = { cand := some s.buf } := rfl
@[simp] theorem State.emitCandidate_input : (s.emitCandidate).input = s.input := rfl
@[simp] theorem State.emitCandidate_out : (s.emitCandidate).out = s.out := rfl

@[simp] theorem State.presentNext_st (x : Stimulus) : (s.presentNext x).st = s.st := rfl
@[simp] theorem State.presentNext_buf (x : Stimulus) : (s.presentNext x).buf = s.buf := rfl
@[simp] theorem State.presentNext_halted (x : Stimulus) : (s.presentNext x).halted = s.halted := rfl
@[simp] theorem State.presentNext_rom (x : Stimulus) : (s.presentNext x).rom = s.rom := rfl
@[simp] theorem State.presentNext_dp (x : Stimulus) : (s.presentNext x).dp = s.dp := rfl
@[simp] theorem State.presentNext_input (x : Stimulus) : (s.presentNext x).input = x :: s.input := rfl
@[simp] theorem State.presentNext_out (x : Stimulus) : (s.presentNext x).out = s.out := rfl

@[simp] theorem State.presentBytes_st (bs : List Byte) : (s.presentBytes bs).st = s.st := rfl
@[simp] theorem State.presentBytes_buf (bs : List Byte) : (s.presentBytes bs).buf = s.buf := rfl
@[simp] theorem State.presentBytes_halted (bs : List Byte) : (s.presentBytes bs).halted = s.halted := rfl
@[simp] theorem State.presentBytes_rom (bs : List Byte) : (s.presentBytes bs).rom = s.rom := rfl
@[simp] theorem State.presentBytes_dp (bs : List Byte) : (s.presentBytes bs).dp = s.dp := rfl
@[simp] theorem State.presentBytes_input (bs : List Byte) : (s.presentBytes bs).input = bs.map (fun b => { rst := false, ev := byteWord b }) ++ s.input := rfl
@[simp] theorem State.presentBytes_out (bs : List Byte) : (s.presentBytes bs).out = s.out := rfl

@[simp] theorem State.ctx_halted : s.ctx.halted = s.halted := rfl
@[simp] theorem State.ctx_st : s.ctx.st = s.st := rfl
@[simp] theorem State.ctx_len : s.ctx.len = s.buf.length := rfl

/-- Taking an input event changes `input` alone, and takes its first entry or, if there is none, the
TIMEOUT word. -/
theorem State.fetch_cases :
    (s.input = [] ∧ s.fetch = (Stimulus.nothing, s)) ∨
      ∃ x xs, s.input = x :: xs ∧ s.fetch = (x, { s with input := xs }) := by
  unfold State.fetch
  cases h : s.input with
  | nil => exact .inl ⟨rfl, rfl⟩
  | cons x xs => exact .inr ⟨x, xs, rfl, rfl⟩

theorem State.fetch_cons {x : Stimulus} {xs : List Stimulus} (h : s.input = x :: xs) :
    s.fetch = (x, { s with input := xs }) := by
  simp [State.fetch, h]

theorem State.fetch_nil (h : s.input = []) : s.fetch = (Stimulus.nothing, s) := by
  simp [State.fetch, h]

/-- The selection looks at fields the fetch does not change. -/
@[simp] theorem State.fetch_ctx : s.fetch.2.ctx = s.ctx := by
  rcases State.fetch_cases s with ⟨-, h⟩ | ⟨x, xs, -, h⟩ <;> simp [h, State.ctx]

end Sys2Proof.Machine
end

