-- ==== Sys2Proof/Laws/Ops.lean ====
section
/-! SUPPORT. Everything the shared operations can do, said once. -/

namespace Sys2Proof.Machine

@[simp] theorem andThen_next (s : State) (f : State → Result) : andThen (.next s) f = f s := rfl

/-- `andThen` answers a next state exactly when both parts do. -/
theorem andThen_eq_next {r : Result} {f : State → Result} {t : State} :
    andThen r f = .next t ↔ ∃ s, r = .next s ∧ f s = .next t := by
  cases r <;> simp [andThen]

/-- An EVENT row in a state that selects it: its body, and no transient left. -/
theorem eventStep_of_admits {i : Instr} {body : State → Result} {s : State}
    (h : i.admits s.ctx = true) :
    eventStep i body s = andThen (body s.beginStep) fun t => .next t.endStep := by
  simp [eventStep, h]

/-- An EVENT row in a state that does not select it. -/
theorem eventStep_of_not_admits {i : Instr} {body : State → Result} {s : State}
    (h : i.admits s.ctx = false) : eventStep i body s = .refused .notSelected := by
  simp [eventStep, h]

/-- All an EVENT row can do when it answers a next state. -/
theorem eventStep_eq_next {i : Instr} {body : State → Result} {s t : State}
    (h : eventStep i body s = .next t) :
    i.admits s.ctx = true ∧ ∃ u, body s.beginStep = .next u ∧ t = u.endStep := by
  unfold eventStep at h
  split at h
  · obtain ⟨u, hu, ht⟩ := andThen_eq_next.1 h
    cases ht
    exact ⟨‹_›, u, hu, rfl⟩
  · cases h

theorem onDatapath_ok {f : Datapath → Except Refusal Datapath} {s : State} {d : Datapath}
    (h : f s.dp = .ok d) : onDatapath f s = .next { s with dp := d } := by
  simp [onDatapath, h]

theorem onDatapath_error {f : Datapath → Except Refusal Datapath} {s : State} {e : Refusal}
    (h : f s.dp = .error e) : onDatapath f s = .refused e := by
  simp [onDatapath, h]

/-- All an operation on the transients can do when it answers a next state: it writes transients alone. -/
theorem onDatapath_eq_next {f : Datapath → Except Refusal Datapath} {s t : State}
    (h : onDatapath f s = .next t) : ∃ d, f s.dp = .ok d ∧ t = { s with dp := d } := by
  unfold onDatapath at h
  split at h
  · cases h
    exact ⟨_, ‹_›, rfl⟩
  · cases h

/-- R208: there is always room on this hardware. -/
@[simp] theorem bufFull_eq_false (len : Nat) : bufFull len = false := rfl

/-- R170, R171: what a step does is `exec` of the selected row, in the state the fetch leaves. -/
theorem step_cons {s : State} {x : Stimulus} {xs : List Stimulus} (h : s.input = x :: xs) :
    step s = exec (selectInput s.ctx x.rst x.ev) { s with input := xs } := by
  rw [step, State.fetch_ctx, State.fetch_cons s h]

/-- With nothing more listed, a step takes the TIMEOUT word. -/
theorem step_nil {s : State} (h : s.input = []) :
    step s = exec (selectInput s.ctx false 0x000) s := by
  rw [step, State.fetch_ctx, State.fetch_nil s h]
  rfl

end Sys2Proof.Machine
end

