-- ==== Sys2Proof/Laws/Datapath.lean ====
section
/-! SUPPORT. The reads of a candidate and the point loop: one lemma for each. -/

namespace Sys2Proof.Machine

@[simp] theorem need_some {α : Type} (v : α) : need (some v) = .ok v := rfl
@[simp] theorem need_none {α : Type} : need (none : Option α) = .error .transientNoValue := rfl

theorem need_eq_ok {α : Type} {r : Option α} {v : α} : need r = .ok v ↔ r = some v := by
  cases r <;> simp [need]

/-- R45: a one-byte read inside the buffer. -/
theorem memRead8_of_lt {B : List Byte} {a : Nat} (h : a < B.length) : memRead8 B a = some B[a] := by
  simp [memRead8, h]

/-- R45, R65: a two-byte read inside the buffer. -/
theorem memRead16_of_lt {B : List Byte} {a : Nat} (h : a + 1 < B.length) :
    memRead16 B a = some (le16 B[a] B[a + 1]) := by
  simp [memRead16, memRead8, h, Nat.lt_of_succ_lt h]

/-- A candidate read that is defined, of a candidate of at least 14 bytes. -/
theorem readCandidate_ok {α : Type} {read : List Byte → Option α} {d : Datapath} {B : List Byte} {v : α}
    (hc : d.cand = some B) (hl : 14 ≤ B.length) (hr : read B = some v) :
    readCandidate read d = .ok v := by
  have : ¬ B.length < Config.minLen := by
    show ¬ _ < 14
    omega
  simp [readCandidate, hc, this, hr, bind, Except.bind]

/-- R125, U14: DECODE's operand is too short. -/
theorem readCandidate_short {α : Type} {read : List Byte → Option α} {d : Datapath} {B : List Byte}
    (hc : d.cand = some B) (hl : B.length < 14) : readCandidate read d = .error .decodeTooShort := by
  have : B.length < Config.minLen := hl
  simp [readCandidate, hc, this, bind, Except.bind]

/-- R33: there is no candidate. -/
theorem readCandidate_none {α : Type} {read : List Byte → Option α} {d : Datapath}
    (hc : d.cand = none) : readCandidate read d = .error .transientNoValue := by
  simp [readCandidate, hc, bind, Except.bind]

/-- R135: the point of a stride that starts below `L - 8` is inside the buffer. -/
theorem pointAt_of_lt {B : List Byte} {i : Nat} (h : i + 8 < B.length) :
    pointAt B i = some { distance := le16 B[i] B[i + 1], intensity := B[i + 3] } := by
  have h16 : memRead16 B i = some (le16 B[i] B[i + 1]) := memRead16_of_lt (by omega)
  have h8 : memRead8 B (i + Config.intensityOfs) = some B[i + 3] := by
    show memRead8 B (i + 3) = _
    exact memRead8_of_lt (by omega)
  simp [pointAt, h16, h8]

/-- R135: with any fuel, from any start, the loop reads inside the buffer. -/
theorem pointLoop_isSome (B : List Byte) (fuel i : Nat) : ∃ ps, pointLoop B fuel i = some ps := by
  induction fuel generalizing i with
  | zero => exact ⟨[], rfl⟩
  | succ n ih =>
    obtain ⟨ps, hps⟩ := ih (i + Config.stride)
    unfold pointLoop
    split
    · rename_i h
      have h' : i < B.length - 8 := h
      rw [pointAt_of_lt (show i + 8 < B.length by omega), hps]
      exact ⟨_, rfl⟩
    · exact ⟨[], rfl⟩

end Sys2Proof.Machine
end

