-- ==== Sys2Proof/Laws/PerInstr.lean ====
section
/-! SUPPORT. For every constructor of Instr: decoding its code, in a state that selects it, gives it back. -/

namespace Sys2Proof.Laws.RoundTrip

/-- The decoder reads the code of a well-formed instruction, in a context its row admits, as that
instruction. (An instruction with no encoding has no code.) -/
def Statement (i : Instr) : Prop :=
  ∀ (c : Ctx) (code : Code), i.wf = true → i.admits c = true → encode i = some code →
    Sys2Proof.decode c code = .ok i

/-- An event row: its word is classified as its class, and the context selects it. -/
theorem of_event {i : Instr} {ev : EventWord} (he : encode i = some (.event false ev))
    (h : ∀ c, i.wf = true → i.admits c = true → selectEvent c ev = i) : Statement i := by
  intro c code hw ha hc
  rw [he] at hc
  cases hc
  simp [Sys2Proof.decode, selectInput, h c hw ha]

/-- A row with no encoding. -/
theorem of_none {i : Instr} (he : encode i = none) : Statement i := by
  intro c code _ _ hc
  simp [he] at hc

/-- An outcome row. -/
theorem of_outcome {i : Instr} {k : BitVec 4} {p : Payload} (he : encode i = some (.outcome k p))
    (h : decodeOutcome k p = .ok i) : Statement i := by
  intro c code _ _ hc
  rw [he] at hc
  cases hc
  exact h

theorem halted : Statement .halted :=
  of_event rfl fun c _ ha => by
    simp only [Instr.admits] at ha
    simp [selectEvent, ha]

theorem stop : Statement .stop :=
  of_event rfl fun c _ ha => by
    simp only [Instr.admits, Bool.not_eq_true'] at ha
    simp [selectEvent, ha]

theorem eos : Statement .eos :=
  of_event rfl fun c _ ha => by
    simp only [Instr.admits, Bool.not_eq_true'] at ha
    simp [selectEvent, ha]

theorem idle : Statement .idle :=
  of_event rfl fun c _ ha => by
    simp only [Instr.admits, Bool.not_eq_true'] at ha
    simp [selectEvent, ha]

theorem syncStart : Statement .syncStart :=
  of_event rfl fun c _ ha => by
    simp only [Instr.admits, Bool.and_eq_true, Bool.not_eq_true', beq_iff_eq] at ha
    simp [selectEvent, ha, selectByte]

theorem syncEmit : Statement .syncEmit :=
  of_event rfl fun c _ ha => by
    simp only [Instr.admits, Bool.and_eq_true, Bool.not_eq_true', beq_iff_eq, decide_eq_true_eq] at ha
    simp [selectEvent, ha, selectByte]

theorem syncDiscard : Statement .syncDiscard :=
  of_event rfl fun c _ ha => by
    simp only [Instr.admits, Bool.and_eq_true, Bool.not_eq_true', beq_iff_eq, decide_eq_true_eq] at ha
    simp [selectEvent, ha, selectByte]

theorem dataSkip (b : Byte) : Statement (.dataSkip b) :=
  of_event rfl fun c _ ha => by
    simp only [Instr.admits, Bool.and_eq_true, Bool.not_eq_true', beq_iff_eq, bne_iff_ne] at ha
    simp [selectEvent, ha, selectByte]

theorem dataAppend (b : Byte) : Statement (.dataAppend b) :=
  of_event rfl fun c _ ha => by
    simp only [Instr.admits, Bool.and_eq_true, Bool.not_eq_true', beq_iff_eq, bne_iff_ne] at ha
    simp [selectEvent, ha, selectByte]

theorem reset : Statement .reset := by
  intro c code _ _ hc
  cases hc
  rfl

theorem validate : Statement .validate :=
  of_none rfl

theorem emptyGuard : Statement .emptyGuard :=
  of_none rfl

theorem assemble : Statement .assemble :=
  of_none rfl

theorem publish : Statement .publish :=
  of_none rfl

theorem frame (f : RawFrame) : Statement (.frame f) := by
  intro c code hw _ hc
  cases hc
  simp only [Instr.wf, Bool.and_eq_true, beq_iff_eq, decide_eq_true_eq] at hw
  exact decodeFrame_frameBytes f hw.1 hw.2

theorem frame14 (v : Byte) (sp a : U16) (x6 x7 x8 : Byte) (e t : U16) (k : Byte) : Statement (.frame14 v sp a x6 x7 x8 e t k) := by
  intro c code _ _ hc
  cases hc
  simp [Sys2Proof.decode, decodeFrame14, frame14Bytes]

theorem decodeHeader : Statement .decodeHeader :=
  of_none rfl

theorem decodeVerlen : Statement .decodeVerlen :=
  of_none rfl

theorem decodeSpeed : Statement .decodeSpeed :=
  of_none rfl

theorem decodeStartAngle : Statement .decodeStartAngle :=
  of_none rfl

theorem decodeEndAngle : Statement .decodeEndAngle :=
  of_none rfl

theorem decodeTimestamp : Statement .decodeTimestamp :=
  of_none rfl

theorem decodeCrc : Statement .decodeCrc :=
  of_none rfl

theorem decodePoints : Statement .decodePoints :=
  of_none rfl

theorem assembleAngleMin : Statement .assembleAngleMin :=
  of_none rfl

theorem assembleAngleMax : Statement .assembleAngleMax :=
  of_none rfl

theorem assembleWrap : Statement .assembleWrap :=
  of_none rfl

theorem assembleAngleIncrement : Statement .assembleAngleIncrement :=
  of_none rfl

theorem assembleRanges : Statement .assembleRanges :=
  of_none rfl

theorem assembleIntensities : Statement .assembleIntensities :=
  of_none rfl

theorem assembleRangeMin : Statement .assembleRangeMin :=
  of_none rfl

theorem assembleRangeMax : Statement .assembleRangeMax :=
  of_none rfl

theorem oIdle : Statement .oIdle :=
  of_outcome rfl rfl

theorem oSkip (b : Byte) : Statement (.oSkip b) :=
  of_outcome rfl rfl

theorem oStart : Statement .oStart :=
  of_outcome rfl rfl

theorem oAppend (b : Byte) : Statement (.oAppend b) :=
  of_outcome rfl rfl

theorem oShort (n : Nat) : Statement (.oShort n) :=
  of_outcome rfl rfl

theorem oCrcReject (n : Nat) (a b : Byte) : Statement (.oCrcReject n a b) :=
  of_outcome rfl rfl

theorem oEmpty (n : Nat) : Statement (.oEmpty n) :=
  of_outcome rfl rfl

theorem oPublish (F : DecodedFrame) (S : NormalizedScan) : Statement (.oPublish F S) :=
  of_outcome rfl rfl

theorem oEos (n : Nat) : Statement (.oEos n) :=
  of_outcome rfl rfl

theorem oStop (n : Nat) : Statement (.oStop n) :=
  of_outcome rfl rfl

theorem oHalted : Statement .oHalted :=
  of_outcome rfl rfl

theorem oOverflow : Statement .oOverflow :=
  of_outcome rfl rfl

theorem decode : Statement .decode :=
  of_none rfl

end Sys2Proof.Laws.RoundTrip
end

