-- ==== Sys2Proof/Laws/Rom.lean ====
section
/-! SUPPORT. The CRC ROM: its canonical form, and that any table can be held. -/

namespace Sys2Proof.Machine

theorem Memory.wf_nil : Memory.wf [] := by simp [Memory.wf]

/-- The ROM after reset is in canonical form. -/
theorem State.reset_rom_wf : State.reset.rom.wf := Memory.wf_nil

/-- Filling the ROM with a table gives the canonical form. -/
theorem Memory.ofTable_wf (f : Byte → Byte) : (Memory.ofTable f).wf := by
  have key : ∀ (i : Nat) (c : Host.Cell),
      (if f (BitVec.ofNat 8 i) = Memory.unlisted i then none
        else some (i, f (BitVec.ofNat 8 i))) = some c → c.1 = i := by
    intro i c h
    split at h
    · cases h
    · cases h
      rfl
  constructor
  · refine List.Pairwise.filterMap _ ?_ (List.pairwise_lt_range (n := 256))
    intro a b hab c hc d hd
    have ha := key a c hc
    have hb := key b d hd
    omega
  · intro c hc
    obtain ⟨i, hi, h⟩ := List.mem_filterMap.1 hc
    by_cases e : f (BitVec.ofNat 8 i) = Memory.unlisted i
    · simp [e] at h
    · simp only [e, if_false, Option.some.injEq] at h
      subst h
      exact ⟨List.mem_range.1 hi, e⟩

/-- A ROM filled with a table reads as the table: no table is shut out (R114, U8). -/
theorem Memory.read_ofTable (f : Byte → Byte) (i : Byte) : (Memory.ofTable f).read i = f i := by
  have hi : BitVec.ofNat 8 i.toNat = i := by simp
  unfold Memory.read
  cases h : (Memory.ofTable f).find? (fun c => c.1 == i.toNat) with
  | some c =>
    have hk : c.1 = i.toNat := by simpa using List.find?_some h
    obtain ⟨j, -, hj⟩ := List.mem_filterMap.1 (List.mem_of_find?_eq_some h)
    by_cases e : f (BitVec.ofNat 8 j) = Memory.unlisted j
    · simp [e] at hj
    · simp only [e, if_false, Option.some.injEq] at hj
      subst hj
      simp only at hk ⊢
      rw [hk, hi]
  | none =>
    by_contra hne
    have hmem : (i.toNat, f i) ∈ Memory.ofTable f := by
      refine List.mem_filterMap.2 ⟨i.toNat, List.mem_range.2 i.isLt, ?_⟩
      rw [hi, if_neg (fun e => hne e.symm)]
    have := List.find?_eq_none.1 h _ hmem
    simp at this

end Sys2Proof.Machine
end

