-- ==== Sys2Proof/Laws/Units.lean ====
section
/-! SUPPORT. What VALIDATE, DECODE, ASSEMBLE, EMPTYGUARD and PUBLISH do to the transients and outputs, said
once for each, in the model's own terms. -/

namespace Sys2Proof.Machine

/-- R111. -/
theorem validateOp_short {rom : Memory} {d : Datapath} {B : List Byte} (hc : d.cand = some B)
    (hl : B.length < 14) : validateOp rom d = .ok { d with verdict := some false } := by
  have : B.length < Config.minLen := hl
  simp [validateOp, hc, this, bind, Except.bind, pure, Except.pure]

/-- R112, R113. -/
theorem validateOp_long {rom : Memory} {d : Datapath} {B : List Byte} (hc : d.cand = some B)
    (hl : 14 ≤ B.length) :
    validateOp rom d = .ok
      { d with
        crcAcc := some (crc8 rom (B.take (B.length - 1)))
        verdict := some (B[B.length - 1]? == some (crc8 rom (B.take (B.length - 1)))) } := by
  have : ¬ B.length < Config.minLen := by
    show ¬ _ < 14
    omega
  simp [validateOp, hc, this, memRead8, bind, Except.bind, pure, Except.pure]

section

variable {d : Datapath} {B : List Byte} (hc : d.cand = some B) (hl : 14 ≤ B.length)

include hc in
/-- R126. -/
theorem headerOp_ok : headerOp d = .ok { d with header := some B[0] } := by
  have h := readCandidate_ok (read := fun B => memRead8 B (0)) hc hl (memRead8_of_lt (by omega))
  simp [headerOp, h, bind, Except.bind, pure, Except.pure]

include hc in
/-- R127. -/
theorem verlenOp_ok : verlenOp d = .ok { d with verlen := some B[1] } := by
  have h := readCandidate_ok (read := fun B => memRead8 B (1)) hc hl (memRead8_of_lt (by omega))
  simp [verlenOp, h, bind, Except.bind, pure, Except.pure]

include hc in
/-- R128. -/
theorem speedOp_ok : speedOp d = .ok { d with speed := some (le16 B[2] B[3]) } := by
  have h := readCandidate_ok (read := fun B => memRead16 B (2)) hc hl (memRead16_of_lt (by omega))
  simp [speedOp, h, bind, Except.bind, pure, Except.pure]

include hc in
/-- R129. -/
theorem startAngleOp_ok : startAngleOp d = .ok { d with startAngle := some (le16 B[4] B[5]) } := by
  have h := readCandidate_ok (read := fun B => memRead16 B (4)) hc hl (memRead16_of_lt (by omega))
  simp [startAngleOp, h, bind, Except.bind, pure, Except.pure]

include hc in
/-- R130. -/
theorem endAngleOp_ok : endAngleOp d = .ok { d with endAngle := some (le16 B[B.length - 5] B[B.length - 5 + 1]) } := by
  have h := readCandidate_ok (read := fun B => memRead16 B (B.length - 5)) hc hl (memRead16_of_lt (by omega))
  simp [endAngleOp, h, bind, Except.bind, pure, Except.pure]

include hc in
/-- R131. -/
theorem timestampOp_ok : timestampOp d = .ok { d with timestamp := some (le16 B[B.length - 3] B[B.length - 3 + 1]) } := by
  have h := readCandidate_ok (read := fun B => memRead16 B (B.length - 3)) hc hl (memRead16_of_lt (by omega))
  simp [timestampOp, h, bind, Except.bind, pure, Except.pure]

include hc in
/-- R132. -/
theorem crcOp_ok : crcOp d = .ok { d with crc := some B[B.length - 1] } := by
  have h := readCandidate_ok (read := fun B => memRead8 B (B.length - 1)) hc hl (memRead8_of_lt (by omega))
  simp [crcOp, h, bind, Except.bind, pure, Except.pure]

include hc hl in
/-- R133, with the points as the loop gives them. -/
theorem pointsOp_ok {ps : List Point} (hps : pointLoop B B.length Config.pointBase = some ps) :
    pointsOp d = .ok { d with points := some ps } := by
  have h := readCandidate_ok (read := fun B => pointLoop B B.length Config.pointBase) hc hl hps
  simp [pointsOp, h, bind, Except.bind, pure, Except.pure]

include hc hl in
/-- R125 to R133, with the points as the loop gives them. -/
theorem decodeOp_ok :
    ∃ ps, pointLoop B B.length Config.pointBase = some ps ∧
      decodeOp d = .ok
        { d with
          header := some B[0], verlen := some B[1], speed := some (le16 B[2] B[3])
          startAngle := some (le16 B[4] B[5])
          endAngle := some (le16 B[B.length - 5] B[B.length - 5 + 1])
          timestamp := some (le16 B[B.length - 3] B[B.length - 3 + 1])
          crc := some B[B.length - 1], points := some ps } := by
  obtain ⟨ps, hps⟩ := pointLoop_isSome B B.length Config.pointBase
  refine ⟨ps, hps, ?_⟩
  have h1 := headerOp_ok hc hl
  have h2 := verlenOp_ok
    (d := { d with header := some B[0] }) hc hl
  have h3 := speedOp_ok
    (d := { d with header := some B[0], verlen := some B[1] }) hc hl
  have h4 := startAngleOp_ok
    (d := { d with header := some B[0], verlen := some B[1], speed := some (le16 B[2] B[3]) }) hc hl
  have h5 := endAngleOp_ok
    (d := { d with header := some B[0], verlen := some B[1], speed := some (le16 B[2] B[3]), startAngle := some (le16 B[4] B[5]) }) hc hl
  have h6 := timestampOp_ok
    (d := { d with header := some B[0], verlen := some B[1], speed := some (le16 B[2] B[3]), startAngle := some (le16 B[4] B[5]), endAngle := some (le16 B[B.length - 5] B[B.length - 5 + 1]) }) hc hl
  have h7 := crcOp_ok
    (d := { d with header := some B[0], verlen := some B[1], speed := some (le16 B[2] B[3]), startAngle := some (le16 B[4] B[5]), endAngle := some (le16 B[B.length - 5] B[B.length - 5 + 1]), timestamp := some (le16 B[B.length - 3] B[B.length - 3 + 1]) }) hc hl
  have h8 := pointsOp_ok
    (d := { d with header := some B[0], verlen := some B[1], speed := some (le16 B[2] B[3]), startAngle := some (le16 B[4] B[5]), endAngle := some (le16 B[B.length - 5] B[B.length - 5 + 1]), timestamp := some (le16 B[B.length - 3] B[B.length - 3 + 1]), crc := some B[B.length - 1] }) hc hl hps
  simp only [decodeOp, bind, Except.bind, h1, h2, h3, h4, h5, h6, h7, h8]

end

/-- R145 to R153 for a frame whose points are `p :: ps`. -/
theorem assembleOp_ok {d : Datapath} {s e : U16} {p : Point} {ps : List Point}
    (hs : d.startAngle = some s) (he : d.endAngle = some e) (hp : d.points = some (p :: ps)) :
    assembleOp d = .ok
      { d with
        angleMin := some (radians ((s.toNat : Rat) / (Config.cdegPerDeg : Rat)))
        angleMax := some (radians ((e.toNat : Rat) / (Config.cdegPerDeg : Rat)))
        endAdj := some (wrapAdjust s e)
        span := some (spanOf (wrapAdjust s e) s)
        angleIncrement := some (radians
          ((spanOf (wrapAdjust s e) s : Rat) / (Config.cdegPerDeg : Rat) / ((p :: ps).length : Rat)))
        ranges := some ((p :: ps).map fun q => (q.distance.toNat : Rat) / (Config.mmPerM : Rat))
        intensities := some ((p :: ps).map (·.intensity))
        rangeMin := some (minOf ((p.distance.toNat : Rat) / (Config.mmPerM : Rat))
          (ps.map fun q => (q.distance.toNat : Rat) / (Config.mmPerM : Rat)))
        rangeMax := some (maxOf ((p.distance.toNat : Rat) / (Config.mmPerM : Rat))
          (ps.map fun q => (q.distance.toNat : Rat) / (Config.mmPerM : Rat))) } := by
  simp [assembleOp, angleMinOp, angleMaxOp, wrapOp, angleIncrementOp, rangesOp, intensitiesOp, rangeMinOp,
    rangeMaxOp, hs, he, hp, bind, Except.bind, pure, Except.pure]

/-- U1, D18: no points. -/
theorem assembleOp_empty {d : Datapath} (hp : d.points = some []) :
    assembleOp d = .error .assembleEmpty := by
  simp [assembleOp, hp, bind, Except.bind]

/-- R174 for a frame with points. -/
theorem runEmptyGuard_points {s : State} {B : List Byte} {p : Point} {ps : List Point}
    (hc : s.dp.cand = some B) (hp : s.dp.points = some (p :: ps)) : runEmptyGuard s = .next s := by
  simp [runEmptyGuard, hc, hp]

/-- R174 for a frame without points. -/
theorem runEmptyGuard_empty {s : State} {B : List Byte}
    (hc : s.dp.cand = some B) (hp : s.dp.points = some []) :
    runEmptyGuard s = .next (s.raise (.empty B.length)) := by
  simp [runEmptyGuard, hc, hp]

/-- R173. -/
theorem runPublish_ok {s : State} {F : DecodedFrame} {S : NormalizedScan} (hF : s.dp.decoded = .ok F)
    (hS : s.dp.normalized = .ok S) :
    runPublish s = .next
      { s with out := { label := some (.publish F S), scan := some S, delivered := some (deliver S) } } := by
  simp [runPublish, hF, hS]

/-- The DecodedFrame register group reads as what its registers hold. -/
theorem Datapath.decoded_eq_ok {d : Datapath} {F : DecodedFrame} :
    d.decoded = .ok F ↔
      d.header = some F.header ∧ d.verlen = some F.verlen ∧ d.speed = some F.speed ∧
        d.startAngle = some F.startAngle ∧ d.endAngle = some F.endAngle ∧
        d.timestamp = some F.timestamp ∧ d.crc = some F.crc ∧ d.points = some F.points := by
  obtain ⟨h, v, sp, sa, ea, ts, cr, ps⟩ := F
  unfold Datapath.decoded
  cases d.header <;> cases d.verlen <;> cases d.speed <;> cases d.startAngle <;> cases d.endAngle <;>
    cases d.timestamp <;> cases d.crc <;> cases d.points <;>
    simp [bind, Except.bind, pure, Except.pure]

/-- The NormalizedScan register group reads as what its registers hold. -/
theorem Datapath.normalized_eq_ok {d : Datapath} {S : NormalizedScan} :
    d.normalized = .ok S ↔
      d.angleMin = some S.angleMin ∧ d.angleMax = some S.angleMax ∧
        d.angleIncrement = some S.angleIncrement ∧ d.ranges = some S.ranges ∧
        d.intensities = some S.intensities ∧ d.rangeMin = some S.rangeMin ∧
        d.rangeMax = some S.rangeMax := by
  obtain ⟨a, b, c, r, i, m, x⟩ := S
  unfold Datapath.normalized
  cases d.angleMin <;> cases d.angleMax <;> cases d.angleIncrement <;> cases d.ranges <;>
    cases d.intensities <;> cases d.rangeMin <;> cases d.rangeMax <;>
    simp [bind, Except.bind, pure, Except.pure]

end Sys2Proof.Machine
end

