-- ==== Sys2Proof/Laws/Step.lean ====
section
/-! SUPPORT. Everything a resolution and a step can do, said once. -/

namespace Sys2Proof.Machine

/-- R172: the outputs a resolution can leave. -/
def IsResolution (L : Nat) (o : Output) : Prop :=
  (∃ computed carried, o = { label := some (.crcReject L computed carried) }) ∨
    o = { label := some (.empty L) } ∨
    ∃ F S, o = { label := some (.publish F S), scan := some S, delivered := some (deliver S) }

/-- R125: DECODE of at least 14 bytes, and what the rest of the resolution reads of it. -/
theorem decodeOp_gives {d : Datapath} {B : List Byte} (hc : d.cand = some B) (hl : 14 ≤ B.length) :
    ∃ d' ps s e, decodeOp d = .ok d' ∧ d'.cand = some B ∧ d'.points = some ps ∧ d'.startAngle = some s ∧
      d'.endAngle = some e ∧ ∃ F, d'.decoded = .ok F := by
  obtain ⟨ps, -, hd⟩ := decodeOp_ok hc hl
  exact ⟨_, _, _, _, hd, hc, rfl, rfl, rfl, ⟨_, _, _, _, _, _, _, _⟩,
    Datapath.decoded_eq_ok.2 ⟨rfl, rfl, rfl, rfl, rfl, rfl, rfl, rfl⟩⟩

/-- R145: ASSEMBLE of at least one point gives a scan and leaves the decoded frame. -/
theorem assembleOp_gives {d : Datapath} {s e : U16} {p : Point} {ps : List Point}
    (hs : d.startAngle = some s) (he : d.endAngle = some e) (hp : d.points = some (p :: ps)) :
    ∃ d' S, assembleOp d = .ok d' ∧ d'.decoded = d.decoded ∧ d'.normalized = .ok S :=
  ⟨_, ⟨_, _, _, _, _, _, _⟩, assembleOp_ok hs he hp, rfl,
    Datapath.normalized_eq_ok.2 ⟨rfl, rfl, rfl, rfl, rfl, rfl, rfl⟩⟩

/-- R110: VALIDATE of at least 14 bytes: a verdict, the computed CRC, and the candidate kept. -/
theorem validateOp_gives {rom : Memory} {d : Datapath} {B : List Byte} (hc : d.cand = some B)
    (hl : 14 ≤ B.length) :
    ∃ d' acc v, validateOp rom d = .ok d' ∧ d'.cand = some B ∧ d'.crcAcc = some acc ∧
      d'.verdict = some v :=
  ⟨_, _, _, validateOp_long hc hl, hc, rfl, rfl⟩

/-- R172: a candidate of at least 14 bytes is always resolved; only transients and outputs are written. -/
theorem resolve_ok {s : State} {B : List Byte} (hc : s.dp.cand = some B) (hl : 14 ≤ B.length) :
    ∃ d o, resolve s = .next { s with dp := d, out := o } ∧ IsResolution B.length o := by
  obtain ⟨d1, acc, v, hv, hc1, ha, hverdict⟩ := validateOp_gives (rom := s.rom) hc hl
  have h1 : runValidate s = .next { s with dp := d1 } := onDatapath_ok hv
  cases v with
  | false =>
    have hr : ∃ k, rejectLabel d1 = .ok (.crcReject B.length acc k) := by
      have h := readCandidate_ok (d := d1) (read := fun B => memRead8 B (B.length - 1)) hc1 hl
        (memRead8_of_lt (by omega))
      exact ⟨B[B.length - 1], by simp [rejectLabel, hc1, ha, h, bind, Except.bind, pure, Except.pure]⟩
    obtain ⟨k, hk⟩ := hr
    exact ⟨d1, _, by simp [resolve, h1, hverdict, raiseCrc, hk, State.raise], .inl ⟨acc, k, rfl⟩⟩
  | true =>
    obtain ⟨d2, ps, sa, ea, hd, hc2, hp, hs, he, F, hF⟩ := decodeOp_gives hc1 hl
    have h2 : runDecode { s with dp := d1 } = .next { s with dp := d2 } := onDatapath_ok hd
    cases ps with
    | nil =>
      have h3 := runEmptyGuard_empty (s := { s with dp := d2 }) hc2 hp
      exact ⟨d2, _, by simp [resolve, h1, hverdict, h2, h3, hp, State.raise], .inr (.inl rfl)⟩
    | cons p ps =>
      have h3 := runEmptyGuard_points (s := { s with dp := d2 }) hc2 hp
      obtain ⟨d3, S, hA, hF3, hS⟩ := assembleOp_gives hs he hp
      have h4 : runAssemble { s with dp := d2 } = .next { s with dp := d3 } := onDatapath_ok hA
      have h5 := runPublish_ok (s := { s with dp := d3 }) (hF3.trans hF) hS
      exact ⟨d3, _, by simp [resolve, h1, hverdict, h2, h3, h4, h5, hp], .inr (.inr ⟨F, S, rfl⟩)⟩

/-- R170, R171: everything a step can do. `x` is the stimulus the step is presented with, `s1` the state with
that stimulus taken, and `t` the state after: it is always a next state. -/
theorem step_cases (s : State) :
    ∃ (x : Stimulus) (s1 t : State), s.fetch = (x, s1) ∧ step s = .next t ∧
      ((x.rst = true ∧ t = { State.reset with rom := s1.rom, input := s1.input }) ∨
      (x.rst = false ∧ s1.halted = true ∧ t = { s1 with dp := .empty, out := { label := some .halted } }) ∨
      (x.rst = false ∧ s1.halted = false ∧
        ((classify x.ev = .stop ∧ t =
            { s1 with
              st := .seeking, buf := [], halted := true, dp := .empty
              out := { label := some (.stop s1.buf.length) } }) ∨
        (classify x.ev = .eos ∧ t =
            { s1 with
              st := .seeking, buf := [], halted := true, dp := .empty
              out := { label := some (.eos s1.buf.length), eosOut := true } }) ∨
        (classify x.ev = .timeout ∧ t = { s1 with dp := .empty, out := { label := some .idle } }) ∨
        (∃ b, classify x.ev = .byte b ∧ b ≠ Config.syncByte ∧ s1.st = .seeking ∧
          t = { s1 with dp := .empty, out := { label := some (.skip b) } }) ∨
        (∃ b, classify x.ev = .byte b ∧ b ≠ Config.syncByte ∧ s1.st = .accumulating ∧
          t = { s1 with buf := s1.buf ++ [b], dp := .empty, out := { label := some (.append b) } }) ∨
        (classify x.ev = .byte Config.syncByte ∧ ∃ o, t =
            { s1 with st := .accumulating, buf := [Config.syncByte], dp := .empty, out := o } ∧
          ((s1.st = .seeking ∧ o = { label := some .start }) ∨
          (s1.st = .accumulating ∧ s1.buf.length < 14 ∧ o = { label := some (.short s1.buf.length) }) ∨
          (s1.st = .accumulating ∧ 14 ≤ s1.buf.length ∧ IsResolution s1.buf.length o)))))) := by
  obtain ⟨x, s1, hf⟩ : ∃ x s1, s.fetch = (x, s1) := ⟨_, _, rfl⟩
  have hstep : step s = exec (selectInput s1.ctx x.rst x.ev) s1 := by rw [step, hf]
  have hadm := selectInput_admits s1.ctx x.rst x.ev
  obtain ⟨rst, ev⟩ := x
  have run : ∀ {i : Instr} {body : State → Result} {u : State}, selectInput s1.ctx rst ev = i →
      exec i s1 = eventStep i body s1 → body s1.beginStep = .next u → step s = .next u.endStep := by
    intro i body u hi he hb
    rw [hstep, hi, he, eventStep_of_admits (hi ▸ hadm), hb]
    rfl
  cases rst with
  | true => exact ⟨_, _, _, hf, hstep, .inl ⟨rfl, rfl⟩⟩
  | false =>
    cases hh : s1.halted with
    | true =>
      have hi : selectInput s1.ctx false ev = .halted := by simp [selectInput, selectEvent, hh]
      exact ⟨_, _, _, hf, run (body := fun t => .next (t.setLabel .halted)) hi rfl rfl,
                .inr (.inl ⟨rfl, hh, rfl⟩)⟩
    | false =>
      cases hc : classify ev with
      | stop =>
        have hi : selectInput s1.ctx false ev = .stop := by simp [selectInput, selectEvent, hh, hc]
        exact ⟨_, _, _, hf, run (body := fun t => .next ((t.setLabel (.stop t.buf.length)).terminate)) hi rfl rfl,
                .inr (.inr ⟨rfl, hh, .inl ⟨hc, rfl⟩⟩)⟩
      | eos =>
        have hi : selectInput s1.ctx false ev = .eos := by simp [selectInput, selectEvent, hh, hc]
        exact ⟨_, _, _, hf, run (body := fun t => .next { t.terminate with out := { label := some (.eos t.buf.length), eosOut := true } }) hi rfl rfl,
                .inr (.inr ⟨rfl, hh, .inr (.inl ⟨hc, rfl⟩)⟩)⟩
      | timeout =>
        have hi : selectInput s1.ctx false ev = .idle := by simp [selectInput, selectEvent, hh, hc]
        exact ⟨_, _, _, hf, run (body := fun t => .next (t.raise .idle)) hi rfl rfl,
                .inr (.inr ⟨rfl, hh, .inr (.inr (.inl ⟨hc, rfl⟩))⟩)⟩
      | byte b =>
        have hi : selectInput s1.ctx false ev = selectByte s1.ctx b := by
          simp [selectInput, selectEvent, hh, hc]
        by_cases hb : b = Config.syncByte
        · subst hb
          cases hst : s1.st with
          | seeking =>
            have hj : selectByte s1.ctx Config.syncByte = .syncStart := by simp [selectByte, hst]
            exact ⟨_, _, _, hf, run (body := fun t => .next ((t.setLabel .start).bufRestart)) (hi.trans hj) rfl rfl,
                .inr (.inr ⟨rfl, hh, .inr (.inr (.inr (.inr (.inr
              ⟨hc, _, rfl, .inl ⟨hst, rfl⟩⟩))))⟩)⟩
          | accumulating =>
            by_cases hl : 14 ≤ s1.buf.length
            · have hj : selectByte s1.ctx Config.syncByte = .syncEmit := by
                simp [selectByte, hst, Config.minLen, hl]
              obtain ⟨d, o, hr, ho⟩ := resolve_ok (s := s1.beginStep.emitCandidate) (B := s1.buf) rfl hl
              exact ⟨_, _, _, hf, run (body := fun t => resolve t.emitCandidate) (hi.trans hj) rfl hr,
                .inr (.inr ⟨rfl, hh, .inr (.inr (.inr (.inr (.inr
                ⟨hc, _, rfl, .inr (.inr ⟨hst, hl, ho⟩)⟩))))⟩)⟩
            · have hj : selectByte s1.ctx Config.syncByte = .syncDiscard := by
                simp [selectByte, hst, Config.minLen, hl]
              exact ⟨_, _, _, hf, run (body := fun t => .next ((t.raise (.short t.buf.length)).bufRestart)) (hi.trans hj) rfl rfl,
                .inr (.inr ⟨rfl, hh, .inr (.inr (.inr (.inr (.inr
                ⟨hc, _, rfl, .inr (.inl ⟨hst, by omega, rfl⟩)⟩))))⟩)⟩
        · cases hst : s1.st with
          | seeking =>
            have hj : selectByte s1.ctx b = .dataSkip b := by simp [selectByte, hst, hb]
            exact ⟨_, _, _, hf, run (body := fun t => .next (t.setLabel (.skip b))) (hi.trans hj) rfl rfl,
                .inr (.inr ⟨rfl, hh, .inr (.inr (.inr (.inl
              ⟨b, hc, hb, hst, rfl⟩)))⟩)⟩
          | accumulating =>
            have hj : selectByte s1.ctx b = .dataAppend b := by simp [selectByte, hst, hb]
            exact ⟨_, _, _, hf, run (body := fun t => .next ((t.setLabel (.append b)).bufAppend b)) (hi.trans hj) rfl rfl,
                .inr (.inr ⟨rfl, hh, .inr (.inr (.inr (.inr (.inl
              ⟨b, hc, hb, hst, rfl⟩))))⟩)⟩

end Sys2Proof.Machine
end

