-- ==== Sys2Proof/Tests/Slice0.lean ====
section
/-! SUPPORT. Tests: expected results are those of spec/95_test_vectors.md or are worked out by hand from the
rule named. First well-formedness and decoding, then single instructions and steps, then for every
obligation with hypotheses a witness that meets them. -/

namespace Sys2Proof.Tests

open Sys2Proof.Machine Sys2Proof.Safety

/-! ### Helpers -/

/-- V-CRC-8. -/
def e14 : List Byte := [0x54, 0x2C, 0x00, 0x00, 0xE8, 0x03, 0x00, 0x00, 0x00, 0xD0, 0x07, 0x00, 0x00, 0x3F]

/-- V-DEC-2, L = 15. -/
def e15 : List Byte :=
  [0x54, 0x2C, 0x64, 0x00, 0x00, 0x00, 0x10, 0x11, 0x12, 0x13, 0x00, 0x00, 0x00, 0x00, 0xB7]

/-- V-DEC-1. -/
def f20 : List Byte :=
  [0x54, 0x2C, 0x68, 0x10, 0x3C, 0x8C, 0xE8, 0x03, 0x64, 0xD0, 0x07, 0x65, 0xB8, 0x0B, 0x66, 0x64, 0x00,
    0x34, 0x12, 0xEE]

/-- V-DEC-1, the fields of F20. -/
def frame20 : RawFrame :=
  { header := 0x54, verlen := 0x2C, speed := 4200, startAngle := 35900
    body := [0xE8, 0x03, 0x64, 0xD0, 0x07, 0x65, 0xB8, 0x0B, 0x66]
    endAngle := 100, timestamp := 0x1234, crc := 0xEE }

/-- V-DEC-1, the DecodedFrame of F20. -/
def decoded20 : DecodedFrame :=
  { header := 0x54, verlen := 0x2C, speed := 4200, startAngle := 35900, endAngle := 100, timestamp := 4660
    crc := 0xEE, points := [⟨1000, 208⟩, ⟨2000, 184⟩] }

/-- V-ASM-1. -/
def scan20 : NormalizedScan :=
  { angleMin := ⟨359 / 180⟩, angleMax := ⟨1 / 180⟩, angleIncrement := ⟨1 / 180⟩, ranges := [1, 2]
    intensities := [208, 184], rangeMin := 1, rangeMax := 2 }

/-- ACCUMULATING with `B` buffered. -/
def accum (B : List Byte) : State := { State.reset with st := .accumulating, buf := B }

/-- Halted. -/
def stopped : State := { State.reset with halted := true }

/-- Transients as given. -/
def withDp (d : Datapath) : State := { State.reset with dp := d }

/-- A candidate in the transients. -/
def withCand (B : List Byte) : State := withDp { cand := some B }

/-- One word presented next. -/
def given (s : State) (ev : EventWord) : State := { s with input := [{ rst := false, ev := ev }] }

/-- The transients ASSEMBLE reads. -/
def angles (s e : U16) (dist : List U16) : Datapath :=
  { startAngle := some s, endAngle := some e, points := some (dist.map fun d => ⟨d, 0⟩) }

/-- The next state, if there is one. -/
def nextOf (r : Result) : Option State :=
  match r with
  | .next s => some s
  | .fault _ => none
  | .refused _ => none

/-- The transients after. -/
def dpOf (r : Result) : Option Datapath := (nextOf r).map (·.dp)

/-- The label after. -/
def labelOf (r : Result) : Option Label := (nextOf r).bind (·.out.label)

/-- The scan after. -/
def scanOf (r : Result) : Option NormalizedScan := (nextOf r).bind (·.out.scan)

/-- The persistent state after (R20). -/
def persistent (r : Result) : Option (SyncState × List Byte × Bool) :=
  (nextOf r).map fun s => (s.st, s.buf, s.halted)

/-- The refusal, if it is one. -/
def refusalOf (r : Result) : Option Refusal :=
  match r with
  | .next _ => none
  | .fault _ => none
  | .refused e => some e

/-- The rejection of a decoding, if it is one. -/
def errorOf (r : Except DecodeError Instr) : Option DecodeError :=
  match r with
  | .ok _ => none
  | .error e => some e

/-- Running, ACCUMULATING, `n` bytes buffered. -/
def accumCtx (n : Nat) : Ctx := { halted := false, st := .accumulating, len := n }

/-! ### Well-formedness: an ill-formed term for each check -/

theorem test_wf_skip : Instr.wf (.dataSkip 0x54) = false := by decide
theorem test_wf_append : Instr.wf (.dataAppend 0x54) = false := by decide
theorem test_wf_frame_header : Instr.wf (.frame { frame20 with header := 0x55 }) = false := by decide
theorem test_wf_frame_body : Instr.wf (.frame { frame20 with body := [0, 0] }) = false := by decide
theorem test_wf_o_skip : Instr.wf (.oSkip 0x54) = false := by decide
theorem test_wf_o_append : Instr.wf (.oAppend 0x54) = false := by decide
theorem test_wf_o_short_0 : Instr.wf (.oShort 0) = false := by decide
theorem test_wf_o_short_14 : Instr.wf (.oShort 14) = false := by decide
theorem test_wf_o_crc_len : Instr.wf (.oCrcReject 13 0 1) = false := by decide
theorem test_wf_o_crc_equal : Instr.wf (.oCrcReject 14 1 1) = false := by decide
theorem test_wf_o_empty : Instr.wf (.oEmpty 15) = false := by decide
theorem test_wf_o_publish_empty : Instr.wf (.oPublish { decoded20 with points := [] } scan20) = false := by rfl
theorem test_wf_o_publish_ranges : Instr.wf (.oPublish decoded20 { scan20 with ranges := [1] }) = false := by rfl
theorem test_wf_o_publish_intensities :
    Instr.wf (.oPublish decoded20 { scan20 with intensities := [0] }) = false := by rfl
theorem test_wf_frame_ok : Instr.wf (.frame frame20) = true := by decide

/-! ### Decoding: words written out from R60, R61, R73, R63, R64 -/

theorem test_decode_halted :
    decode { halted := true, st := .seeking, len := 0 } (.event false 0b00101010100#11) = .ok .halted := by rfl
theorem test_decode_stop : decode .afterReset (.event false 0b10000000000#11) = .ok .stop := by rfl
theorem test_decode_stop_first : decode (accumCtx 14) (.event false 0b11101010100#11) = .ok .stop := by rfl
theorem test_decode_eos : decode .afterReset (.event false 0b01000000000#11) = .ok .eos := by rfl
theorem test_decode_eos_before_valid : decode .afterReset (.event false 0b01101010100#11) = .ok .eos := by rfl
theorem test_decode_idle : decode .afterReset (.event false 0b00001010100#11) = .ok .idle := by rfl
theorem test_decode_sync_start : decode .afterReset (.event false 0b00101010100#11) = .ok .syncStart := by rfl
theorem test_decode_sync_emit : decode (accumCtx 14) (.event false 0b00101010100#11) = .ok .syncEmit := by rfl
theorem test_decode_sync_discard : decode (accumCtx 13) (.event false 0b00101010100#11) = .ok .syncDiscard := by
  rfl
theorem test_decode_skip : decode .afterReset (.event false 0b00111111111#11) = .ok (.dataSkip 0xFF) := by rfl
theorem test_decode_append : decode (accumCtx 1) (.event false 0b00100101100#11) = .ok (.dataAppend 0x2C) := by
  rfl
theorem test_decode_reset : decode (accumCtx 20) (.event true 0b11111111111#11) = .ok .reset := by rfl
theorem test_decode_frame : decode .afterReset (.rawFrame f20) = .ok (.frame frame20) := by rfl
theorem test_decode_frame14 :
    decode .afterReset (.rawFrame14 e14) = .ok (.frame14 0x2C 0 1000 0 0 0 2000 0 0x3F) := by rfl
theorem test_decode_o_idle : decode .afterReset (.outcome 0b0000#4 .none) = .ok .oIdle := by rfl
theorem test_decode_o_skip : decode .afterReset (.outcome 0b0001#4 (.byte 0x13)) = .ok (.oSkip 0x13) := by rfl
theorem test_decode_o_start : decode .afterReset (.outcome 0b0010#4 .none) = .ok .oStart := by rfl
theorem test_decode_o_append : decode .afterReset (.outcome 0b0011#4 (.byte 0x2C)) = .ok (.oAppend 0x2C) := by
  rfl
theorem test_decode_o_short : decode .afterReset (.outcome 0b0100#4 (.len 13)) = .ok (.oShort 13) := by rfl
theorem test_decode_o_crc :
    decode .afterReset (.outcome 0b0101#4 (.crc 20 0x38 0xDC)) = .ok (.oCrcReject 20 0x38 0xDC) := by rfl
theorem test_decode_o_empty : decode .afterReset (.outcome 0b0110#4 (.len 14)) = .ok (.oEmpty 14) := by rfl
theorem test_decode_o_publish :
    decode .afterReset (.outcome 0b0111#4 (.scan decoded20 scan20)) = .ok (.oPublish decoded20 scan20) := by rfl
theorem test_decode_o_eos : decode .afterReset (.outcome 0b1000#4 (.len 20)) = .ok (.oEos 20) := by rfl
theorem test_decode_o_stop : decode .afterReset (.outcome 0b1001#4 (.len 2)) = .ok (.oStop 2) := by rfl
theorem test_decode_o_halted : decode .afterReset (.outcome 0b1010#4 .none) = .ok .oHalted := by rfl
theorem test_decode_o_overflow : decode .afterReset (.outcome 0b1011#4 .none) = .ok .oOverflow := by rfl

/-- U13. -/
theorem test_decode_reserved : errorOf (decode .afterReset (.outcome 0b1100#4 .none)) = some .reservedOutcome := by
  rfl
theorem test_decode_payload : errorOf (decode .afterReset (.outcome 4 .none)) = some .payloadMismatch := by rfl
theorem test_decode_frame_short : errorOf (decodeFrame (f20.take 13)) = some .frameTooShort := by rfl
theorem test_decode_frame_header : errorOf (decodeFrame (f20.set 0 0x55)) = some .frameHeader := by rfl
theorem test_decode_frame14_long : errorOf (decodeFrame14 e15) = some .frameNot14 := by rfl

/-- The rows of which the table says "no event-word encoding". -/
theorem test_encode_none :
    [Instr.validate, .decode, .emptyGuard, .assemble, .publish, .decodeHeader, .decodeVerlen, .decodeSpeed,
      .decodeStartAngle, .decodeEndAngle, .decodeTimestamp, .decodeCrc, .decodePoints, .assembleAngleMin,
      .assembleAngleMax, .assembleWrap, .assembleAngleIncrement, .assembleRanges, .assembleIntensities,
      .assembleRangeMin, .assembleRangeMax].all (fun i => encode i == none) = true := by rfl

/-- The table words (log entry 12). -/
theorem test_table_word_stop : decodeTableWord 16 0x400 = some .stop := by rfl
theorem test_table_word_frame14 :
    decodeTableWord 112 0x3F000007D000000003E800002C54 = some (.frame14 0x2C 0 1000 0 0 0 2000 0 0x3F) := by rfl

/-! ### Instructions -/

/-- V-SYN-2. -/
theorem test_sync_start : persistent (exec .syncStart State.reset) = some (.accumulating, [0x54], false) := by
  decide
/-- V-SYN-1. -/
theorem test_data_skip : persistent (exec (.dataSkip 0xFF) State.reset) = some (.seeking, [], false) := by decide
/-- V-SYN-7. -/
theorem test_data_append :
    persistent (exec (.dataAppend 0x2C) (accum [0x54])) = some (.accumulating, [0x54, 0x2C], false) := by decide
/-- V-SYN-5. -/
theorem test_sync_discard : labelOf (exec .syncDiscard (accum (0x54 :: List.replicate 12 0))) = some (.short 13) := by
  decide
/-- V-SYN-4. -/
theorem test_sync_discard_restarts :
    persistent (exec .syncDiscard (accum [0x54])) = some (.accumulating, [0x54], false) := by decide
/-- V-SYN-7. -/
theorem test_idle : persistent (exec .idle (accum [0x54])) = some (.accumulating, [0x54], false) := by decide
/-- V-SYN-9. -/
theorem test_eos : persistent (exec .eos (accum [0x54, 0x2C, 0x00])) = some (.seeking, [], true) := by decide
theorem test_eos_out : (nextOf (exec .eos (accum [0x54, 0x2C, 0x00]))).map (·.out) =
    some { label := some (.eos 3), eosOut := true } := by rfl
/-- V-SYN-11, V-SYN-12. -/
theorem test_stop : persistent (exec .stop (accum [0x54, 0x2C])) = some (.seeking, [], true) := by decide
theorem test_stop_out : (nextOf (exec .stop (accum [0x54, 0x2C]))).map (·.out) =
    some { label := some (.stop 2), eosOut := false } := by rfl
/-- V-SYN-10. -/
theorem test_halted : labelOf (step (given stopped 0x154)) = some .halted := by decide
/-- V-SYN-14. -/
theorem test_reset : persistent (exec .reset stopped) = some (.seeking, [], false) := by decide
/-- V-SYN-6. -/
theorem test_emit_crc :
    labelOf (exec .syncEmit (accum (0x54 :: List.replicate 13 0))) = some (.crcReject 14 0xBD 0x00) := by decide +kernel
/-- P2. -/
theorem test_emit_empty : labelOf (step (given (accum e14) 0x154)) = some (.empty 14) := by decide +kernel
/-- P1. -/
theorem test_emit_publish : labelOf (step (given (accum f20) 0x154)) = some (.publish decoded20 scan20) := by decide +kernel
theorem test_emit_restarts : persistent (step (given (accum f20) 0x154)) = some (.accumulating, [0x54], false) := by decide +kernel

/-- V-CRC-2. -/
theorem test_crc_one : crc8 [] [0x01] = 0x4D := by decide
theorem test_crc_check : crc8 [] [0x31, 0x32, 0x33, 0x34, 0x35, 0x36, 0x37, 0x38, 0x39] = 0xC3 := by decide
/-- R114: the table is the one its polynomial generates, checked at two entries the rule prints. -/
theorem test_table_ends : Memory.read [] 0x01 = 0x4D ∧ Memory.read [] 0xFF = 0xA8 := by decide
/-- V-CRC-8, V-CRC-3. -/
theorem test_validate_accepts : (dpOf (exec .validate (withCand e14))).bind (·.verdict) = some true := by decide +kernel
theorem test_validate_rejects : (dpOf (exec .validate (withCand (e14.set 13 0x3E)))).map (fun d => (d.crcAcc, d.verdict))
    = some (some 0x3F, some false) := by decide +kernel

/-- V-DEC-1. -/
theorem test_decode_row : (dpOf (exec .decode (withCand f20))).bind (fun d => d.decoded.toOption) = some decoded20 := by rfl
theorem test_header : (dpOf (exec .decodeHeader (withCand f20))).bind (·.header) = some 0x54 := by rfl
theorem test_verlen : (dpOf (exec .decodeVerlen (withCand f20))).bind (·.verlen) = some 0x2C := by rfl
theorem test_speed : (dpOf (exec .decodeSpeed (withCand f20))).bind (·.speed) = some 4200 := by rfl
theorem test_start_angle : (dpOf (exec .decodeStartAngle (withCand f20))).bind (·.startAngle) = some 35900 := by rfl
theorem test_end_angle : (dpOf (exec .decodeEndAngle (withCand f20))).bind (·.endAngle) = some 100 := by rfl
/-- V-DEC-3. -/
theorem test_end_angle_14 : (dpOf (exec .decodeEndAngle (withCand e14))).bind (·.endAngle) = some 2000 := by rfl
theorem test_timestamp : (dpOf (exec .decodeTimestamp (withCand f20))).bind (·.timestamp) = some 4660 := by rfl
theorem test_crc_field : (dpOf (exec .decodeCrc (withCand f20))).bind (·.crc) = some 0xEE := by rfl
/-- V-DEC-2, L = 15 and L = 14. -/
theorem test_points : (dpOf (exec .decodePoints (withCand e15))).bind (·.points) = some [⟨4368, 19⟩] := by rfl
theorem test_points_none : (dpOf (exec .decodePoints (withCand e14))).bind (·.points) = some [] := by rfl

/-- V-ASM-5. -/
theorem test_angle_min : (dpOf (exec .assembleAngleMin (withDp (angles 35999 0 [1])))).bind (·.angleMin) =
    some ⟨35999 / 18000⟩ := by decide +kernel
/-- V-ASM-8. -/
theorem test_angle_max : (dpOf (exec .assembleAngleMax (withDp (angles 65535 65534 [1])))).bind (·.angleMax) =
    some ⟨32767 / 9000⟩ := by decide +kernel
/-- V-ASM-7, V-ASM-3. -/
theorem test_wrap : (dpOf (exec .assembleWrap (withDp (angles 65535 0 [7])))).map (fun d => (d.endAdj, d.span)) =
    some (some 36000, some (-29535)) := by rfl
theorem test_wrap_equal : (dpOf (exec .assembleWrap (withDp (angles 18000 18000 [5])))).map (fun d => (d.endAdj, d.span)) =
    some (some 18000, some 0) := by rfl
/-- V-ASM-5, V-ASM-7. -/
theorem test_increment : (dpOf (exec .assembleAngleIncrement
    (withDp { angles 35999 0 [1, 2, 3, 4] with endAdj := some 36000 }))).bind (·.angleIncrement) =
    some ⟨1 / 72000⟩ := by decide +kernel
theorem test_increment_negative : (dpOf (exec .assembleAngleIncrement
    (withDp { angles 65535 0 [7] with endAdj := some 36000 }))).bind (·.angleIncrement) =
    some ⟨-1969 / 1200⟩ := by decide +kernel
/-- V-ASM-9. -/
theorem test_ranges : (dpOf (exec .assembleRanges (withDp (angles 0 0 [0, 65535, 1])))).bind (·.ranges) =
    some [0, 13107 / 200, 1 / 1000] := by decide +kernel
/-- R151. -/
theorem test_intensities : (dpOf (exec .assembleIntensities
    (withDp { points := some [⟨1000, 208⟩, ⟨2000, 184⟩] }))).bind (·.intensities) = some [208, 184] := by rfl
/-- V-ASM-9. -/
theorem test_range_min : (dpOf (exec .assembleRangeMin
    (withDp { ranges := some [1 / 1000, 0, 13107 / 200] }))).bind (·.rangeMin) = some 0 := by decide +kernel
theorem test_range_max : (dpOf (exec .assembleRangeMax
    (withDp { ranges := some [0, 13107 / 200, 1 / 1000] }))).bind (·.rangeMax) = some (13107 / 200) := by decide +kernel
/-- V-ASM-4, V-ASM-10. -/
theorem test_assemble : (dpOf (exec .assemble (withDp (angles 1 0 [7])))).bind (fun d => d.normalized.toOption) =
    some { angleMin := ⟨1 / 18000⟩, angleMax := ⟨0⟩, angleIncrement := ⟨35999 / 18000⟩, ranges := [7 / 1000]
           intensities := [0], rangeMin := 7 / 1000, rangeMax := 7 / 1000 } := by decide +kernel
theorem test_assemble_empty : refusalOf (exec .assemble (withDp (angles 1 0 []))) = some .assembleEmpty := by rfl
/-- R174. -/
theorem test_guard : labelOf (exec .emptyGuard (withDp { cand := some e14, points := some [] })) = some (.empty 14) := by rfl

/-- The transients after DECODE and ASSEMBLE of F20. -/
def assembled20 : State := ((nextOf (exec .decode (withCand f20))).bind fun s => nextOf (exec .assemble s)).getD .reset

/-- V-ASM-1, R173. -/
theorem test_publish : scanOf (exec .publish assembled20) = some scan20 := by decide +kernel
/-- R25, R33. -/
theorem test_publish_unwritten : refusalOf (exec .publish State.reset) = some .transientNoValue := by rfl

/-- P2: the first of E14's bytes is presented first. -/
theorem test_frame14 : ((nextOf (exec (.frame14 0x2C 0 1000 0 0 0 2000 0 0x3F) State.reset)).map (·.input)) =
    some (byteEvents e14) := by rfl
theorem test_frame : ((nextOf (exec (.frame frame20) State.reset)).map (·.input)) = some (byteEvents f20) := by rfl

/-- R73. -/
theorem test_outcome_labels :
    [Instr.oIdle, .oSkip 1, .oStart, .oAppend 2, .oShort 3, .oCrcReject 14 4 5, .oEmpty 14, .oEos 6, .oStop 7,
      .oHalted].map (fun i => labelOf (exec i State.reset)) =
    [some .idle, some (.skip 1), some .start, some (.append 2), some (.short 3), some (.crcReject 14 4 5),
      some (.empty 14), some (.eos 6), some (.stop 7), some .halted] := by rfl
theorem test_o_publish : labelOf (exec (.oPublish decoded20 scan20) State.reset) = some (.publish decoded20 scan20) := by rfl
/-- R208. -/
theorem test_o_overflow : (match exec .oOverflow State.reset with
    | .fault e => some e
    | .next _ => none
    | .refused _ => none) = some Fault.bufferOverflow := by decide

/-! ### Witnesses: states and operands that meet the hypotheses of an obligation, one for each clause -/

/-- A word presented in a state, to a row `i`: what the two step statements ask for. -/
abbrev Presents (s : State) (x : Stimulus) (i : Instr) : Prop :=
  s.input = [x] ∧ decode { halted := s.halted, st := s.st, len := s.buf.length } (.event x.rst x.ev) = .ok i

theorem witness_StepRunsTheDecodedInstruction :
    Presents (given (accum e14) 0x154) ⟨false, 0x154⟩ .syncEmit ∧ State.reset.input = [] ∧
      stopped.input = [] ∧ stopped.halted = true := ⟨⟨rfl, rfl⟩, rfl, rfl, rfl⟩

/-- One word for each branch of the dispatch order; 13 and 14 bytes buffered for the two boundaries. -/
theorem witness_StepSelectsItsRowByPriority :
    ({ State.reset with input := [⟨true, 0x400⟩] } : State).input = [⟨true, 0x400⟩] ∧
    (given stopped 0x154).halted = true ∧
    ((0x754 : EventWord).getLsbD 10 = true) ∧
    ((0x354 : EventWord).getLsbD 10 = false ∧ (0x354 : EventWord).getLsbD 9 = true) ∧
    ((0x054 : EventWord).getLsbD 10 = false ∧ (0x054 : EventWord).getLsbD 9 = false ∧
      (0x054 : EventWord).getLsbD 8 = false) ∧
    (∀ b ∈ [(0x154, 0x54), (0x1FF, 0xFF)], ((b.1 : EventWord).getLsbD 10 = false) ∧ b.1.getLsbD 9 = false ∧
      b.1.getLsbD 8 = true ∧ (b.2 : Byte) = b.1.extractLsb' 0 8) ∧
    ((given State.reset 0x154).st = .seeking ∧ (given State.reset 0x154).halted = false) ∧
    ((accum e14).st = .accumulating ∧ (accum e14).buf.length = 14) ∧
    ((accum (e14.take 13)).st = .accumulating ∧ (accum (e14.take 13)).buf.length = 13) :=
  ⟨rfl, rfl, by decide, by decide, by decide, by simp, by decide, by decide, by decide⟩

theorem witness_OutcomeAndFaultCodesAreTheTables :
    (12 ≤ (12 : BitVec 4).toNat) ∧ Label.faultClass .idle = some .timeout ∧
      Label.faultClass (.short 13) = some .framing ∧ Label.faultClass (.crcReject 14 0 1) = some .crc ∧
      Label.faultClass (.empty 14) = some .empty := by decide

theorem witness_DecodeOfEncodeIsTheInstruction :
    (Instr.wf (.frame frame20) = true ∧ Instr.admits .afterReset (.frame frame20) = true ∧
      encode (.frame frame20) = some (.rawFrame f20)) ∧
    (Instr.wf (.dataAppend 0x53) = true ∧ Instr.admits (accumCtx 1) (.dataAppend 0x53) = true ∧
      encode (.dataAppend 0x53) = some (.event false 0x153)) ∧
    (Instr.wf .syncEmit = true ∧ Instr.admits (accumCtx 14) .syncEmit = true ∧
      encode .syncEmit = some (.event false 0x154)) := ⟨⟨rfl, rfl, rfl⟩, ⟨rfl, rfl, rfl⟩, rfl, rfl, rfl⟩

theorem witness_DecodeGivesTheFieldsOfAFrameBack :
    (3 ≤ ({ frame20 with body := [0, 0, 0] } : RawFrame).body.length ∧
      (withCand (frameBytes { frame20 with body := [0, 0, 0] })).dp.cand =
        some (frameBytes { frame20 with body := [0, 0, 0] })) ∧
    (3 ≤ frame20.body.length ∧ (withCand f20).dp.cand = some (frameBytes frame20)) :=
  ⟨⟨by decide, rfl⟩, by decide, rfl⟩

/-- For SyncStartBuffersTheSyncByte, DataSkipChangesNothing, TimeoutStepChangesNothing,
EndOfStreamDiscardsAndHalts and StopDiscardsAndHalts. -/
theorem witness_seeking : State.reset.halted = false ∧ State.reset.st = .seeking ∧ (0x53 : Byte) ≠ 0x54 := by decide

/-- For DataAppendAppendsTheByte (the last offset is 0), SyncDiscardRestartsTheBuffer (1 and 13 bytes) and
the three above in the other state. -/
theorem witness_accumulating :
    ((accum [0x54]).halted = false ∧ (accum [0x54]).st = .accumulating ∧ (0x55 : Byte) ≠ 0x54 ∧
      0 < (accum [0x54]).buf.length) ∧ (accum [0x54]).buf.length < 14 ∧
    ((accum (e14.take 13)).halted = false ∧ (accum (e14.take 13)).st = .accumulating ∧
      (accum (e14.take 13)).buf.length = 13) := by decide

theorem witness_HaltedRowIgnoresTheEvent : stopped.halted = true := rfl

theorem witness_ResetOverridesEverything :
    ({ accum f20 with input := [⟨true, 0x400⟩] } : State).input = { rst := true, ev := 0x400 } :: [] := rfl

theorem witness_EmitRejectsABadCrc :
    (accum (e14.set 13 0x3E)).halted = false ∧ (accum (e14.set 13 0x3E)).st = .accumulating ∧
      (accum (e14.set 13 0x3E)).buf = e14.take 13 ++ [0x3E] ∧ 13 ≤ (e14.take 13).length ∧
      crc8 (accum (e14.set 13 0x3E)).rom (e14.take 13) ≠ 0x3E := by decide +kernel

theorem witness_EmitSkipsAnEmptyFrame :
    (accum e14).halted = false ∧ (accum e14).st = .accumulating ∧ (accum e14).buf = e14.take 13 ++ [0x3F] ∧
      (e14.take 13).length = 13 ∧ crc8 (accum e14).rom (e14.take 13) = 0x3F := by decide +kernel

theorem witness_EmitPublishesAnAcceptedFrame :
    (accum e15).halted = false ∧ (accum e15).st = .accumulating ∧ (accum e15).buf = e15.take 14 ++ [0xB7] ∧
      14 ≤ (e15.take 14).length ∧ crc8 (accum e15).rom (e15.take 14) = 0xB7 := by decide +kernel

/-- The state in which the candidate of EmitRunsTheInternalRowsInOrder is validated. -/
def handedOver (B : List Byte) : State := { accum B with buf := [0x54], dp := { cand := some B }, out := {} }

/-- A rejected candidate, an accepted one without points, and an accepted one with points. -/
theorem witness_EmitRunsTheInternalRowsInOrder :
    (∀ B ∈ [e14.set 13 0x3E, e14, e15], (accum B).halted = false ∧ (accum B).st = .accumulating ∧
      14 ≤ (accum B).buf.length) ∧
    (dpOf (exec .validate (handedOver (e14.set 13 0x3E)))).bind (·.verdict) = some false ∧
    ((dpOf (exec .validate (handedOver e14))).bind (·.verdict) = some true ∧
      (dpOf (exec .decode (handedOver e14))).bind (·.points) = some []) ∧
    ((dpOf (exec .validate (handedOver e15))).bind (·.verdict) = some true ∧
      (dpOf (exec .decode (handedOver e15))).bind (·.points) = some [⟨4368, 19⟩]) := by decide +kernel

/-- Each of the nine rows in a context that does not select it. -/
theorem witness_EventRowsRefuseOutsideTheirCondition :
    Instr.admits .afterReset .halted = false ∧
    (∀ i ∈ [Instr.stop, .eos, .idle, .syncStart, .syncEmit, .syncDiscard, .dataSkip 0, .dataAppend 0],
      i.admits { halted := true, st := .seeking, len := 0 } = false) ∧
    Instr.admits (accumCtx 13) .syncEmit = false ∧ Instr.admits (accumCtx 14) .syncDiscard = false ∧
    Instr.admits .afterReset (.dataSkip 0x54) = false := by decide

theorem witness_ValidateComparesTheCrcOfAllButTheLastByte :
    ((withCand (e14.take 13)).dp.cand = some (e14.take 13) ∧ (e14.take 13).length < 14) ∧
    ((withCand e14).dp.cand = some (e14.take 13 ++ [0x3F]) ∧ 13 ≤ (e14.take 13).length) := by decide

/-- The default table is injective: `inv` gives the index of an entry back. -/
theorem default_table_injective : Function.Injective (Memory.read []) := by
  have h : ∀ b : Byte, BitVec.ofNat 8 (crcTableDefault.idxOf (Memory.read [] b)) = b := by decide +kernel
  intro a b e
  rw [← h a, ← h b, e]

/-- The last and the first byte of an accepted candidate. -/
theorem witness_SingleByteChangeIsRejected :
    Function.Injective (withCand e14).rom.read ∧ (withCand e14).dp.cand = some e14 ∧
    (∃ t, exec .validate (withCand e14) = .next t ∧ t.dp.verdict = some true) ∧
    (13 < e14.length ∧ e14[13]? ≠ some 0x3E) ∧ (0 < e14.length ∧ e14[0]? ≠ some 0x55) :=
  ⟨default_table_injective, rfl, ⟨_, rfl, by decide +kernel⟩, by decide +kernel, by decide +kernel⟩

/-- For DecodeFillsEveryField, ByteFieldRowsReadTheirByte and PointsRowExtractsEveryStride: 14 bytes, no point;
15 bytes, point 0 and no point 1. -/
theorem witness_DecodeFillsEveryField :
    ((withCand e14).dp.cand = some e14 ∧ e14.length = 14 ∧ ¬ 6 + 3 * 0 < e14.length - 8) ∧
    ((withCand e15).dp.cand = some e15 ∧ e15.length = 15 ∧ 0 < pointCount e15.length ∧
      6 + 3 * 0 < e15.length - 8 ∧ ¬ 6 + 3 * 1 < e15.length - 8 ∧ e15[6]? = some 0x10 ∧ e15[7]? = some 0x11 ∧
      e15[9]? = some 0x13) := by decide

/-- Each of the four fields of E14. -/
theorem witness_WordFieldRowsReadLittleEndian :
    (withCand e14).dp.cand = some e14 ∧ 14 ≤ e14.length ∧ (e14[2]? = some 0 ∧ e14[3]? = some 0) ∧
      (e14[4]? = some 0xE8 ∧ e14[5]? = some 0x03) ∧
      (e14[e14.length - 5]? = some 0xD0 ∧ e14[e14.length - 4]? = some 0x07) ∧
      (e14[e14.length - 3]? = some 0 ∧ e14[e14.length - 2]? = some 0) := by decide

theorem witness_DecodeRefusesFewerThan14Bytes :
    ((withCand (e14.take 13)).dp.cand = some (e14.take 13) ∧ (e14.take 13).length < 14) ∧
    ((withCand []).dp.cand = some [] ∧ ([] : List Byte).length < 14) := by decide

/-- Every clause but one at once in the reset state; PUBLISH with everything else written; EMPTYGUARD with points
and no candidate; ASSEMBLE with points and one of its angles. -/
theorem witness_RowsRefuseATransientWithoutAValue :
    (State.reset.dp.cand = none ∧ State.reset.dp.points = none ∧ State.reset.dp.startAngle = none ∧
      State.reset.dp.endAngle = none ∧ State.reset.dp.endAdj = none ∧ State.reset.dp.ranges = none ∧
      State.reset.dp.header = none) ∧
    ({ assembled20 with dp := { assembled20.dp with rangeMax := none } } : State).dp.rangeMax = none ∧
    ((withDp { points := some [⟨7, 0⟩] }).dp.cand = none ∧
      (withDp { points := some [⟨7, 0⟩] }).dp.points = some [⟨7, 0⟩]) ∧
    ((withDp { angles 1 0 [7] with startAngle := none }).dp.startAngle = none ∧
      (withDp { angles 1 0 [7] with startAngle := none }).dp.points ≠ some []) ∧
    ((withDp { angles 1 0 [7] with endAngle := none }).dp.endAngle = none ∧
      (withDp { angles 1 0 [7] with endAngle := none }).dp.points ≠ some []) := by decide

/-- Offset 8 of a 15-byte candidate is not read. -/
theorem witness_UnreadBytesDoNotReachTheDecodedFrame :
    e15.length = (e15.set 8 0xFF).length ∧ 14 ≤ e15.length ∧ e15 ≠ e15.set 8 0xFF ∧
    ∀ a : Nat, a < 6 ∨ (e15.length - 5 ≤ a ∧ a < e15.length) ∨
      (∃ k, 6 + 3 * k < e15.length - 8 ∧ (a = 6 + 3 * k ∨ a = 7 + 3 * k ∨ a = 9 + 3 * k)) →
      e15[a]? = (e15.set 8 0xFF)[a]? := by
  refine ⟨by decide, by decide, by decide, ?_⟩
  intro a h
  have hl : e15.length = 15 := by decide
  rw [hl] at h
  have : 8 ≠ a := by
    rintro rfl
    obtain h | h | ⟨k, hk, h⟩ := h <;> omega
  exact (List.getElem?_set_ne this).symm

/-- For AngleBoundsAreTheDecodedAnglesInRadians, WrapCorrectionIsOnNaturals (`e` one below `s`, and `e = s`) and
WrapIntermediatesStayInRange (in range and out of it). -/
theorem witness_WrapCorrectionIsOnNaturals :
    ((withDp (angles 1 0 [7])).dp.startAngle = some 1 ∧ (withDp (angles 1 0 [7])).dp.endAngle = some 0 ∧
      (0 : U16).toNat < (1 : U16).toNat ∧ (1 : U16).toNat ≤ 35999 ∧ (0 : U16).toNat ≤ 35999) ∧
    ((withDp (angles 18000 18000 [5])).dp.startAngle = some 18000 ∧
      (withDp (angles 18000 18000 [5])).dp.endAngle = some 18000 ∧ (18000 : U16).toNat ≤ (18000 : U16).toNat) ∧
    ((withDp (angles 65535 65534 [1])).dp.startAngle = some 65535 ∧
      (withDp (angles 65535 65534 [1])).dp.endAngle = some 65534) := by decide

/-- For AngleIncrementDividesTheSpanByTheCount and RangesAndIntensitiesAreElementwise. -/
theorem witness_AngleIncrementDividesTheSpanByTheCount :
    (withDp { angles 65535 0 [7] with endAdj := some 36000 }).dp.startAngle = some 65535 ∧
      (withDp { angles 65535 0 [7] with endAdj := some 36000 }).dp.endAdj = some 36000 ∧
      (withDp { angles 65535 0 [7] with endAdj := some 36000 }).dp.points = some [⟨7, 0⟩] ∧
      ([⟨7, 0⟩] : List Point) ≠ [] := by decide

theorem witness_RangeBoundsAreTheLeastAndGreatestRange :
    (withDp { ranges := some [1, 0, 2] }).dp.ranges = some [1, 0, 2] ∧ ([1, 0, 2] : List Rat) ≠ [] :=
  ⟨rfl, by simp⟩

/-- For AssembleFillsTheScan and IncrementIsNonNegativeForAnglesInRange (35999 and 0, and `e = s`). -/
theorem witness_AssembleFillsTheScan :
    ((withDp (angles 35999 0 [1])).dp.startAngle = some 35999 ∧ (withDp (angles 35999 0 [1])).dp.endAngle = some 0 ∧
      (withDp (angles 35999 0 [1])).dp.points = some [⟨1, 0⟩] ∧ ([⟨1, 0⟩] : List Point) ≠ [] ∧
      (35999 : U16).toNat ≤ 35999 ∧ (0 : U16).toNat ≤ 35999) ∧
    ((withDp (angles 0 0 [1])).dp.startAngle = some 0 ∧ (withDp (angles 0 0 [1])).dp.endAngle = some 0) ∧
    (withDp (angles 0 0 [])).dp.points = some [] := by decide

theorem witness_OutputRowsRefuseNoPoints :
    ((withDp { angles 1 0 [] with endAdj := some 36000 }).dp.points = some [] ∧
      (withDp { angles 1 0 [] with endAdj := some 36000 }).dp.startAngle ≠ none ∧
      (withDp { angles 1 0 [] with endAdj := some 36000 }).dp.endAdj ≠ none) ∧
    (withDp { ranges := some [] }).dp.ranges = some [] := ⟨by decide, rfl⟩

/-- No points and one point. -/
theorem witness_EmptyGuardFiresExactlyWithoutPoints :
    ((withDp { cand := some e14, points := some [] }).dp.cand = some e14 ∧
      (withDp { cand := some e14, points := some [] }).dp.points = some []) ∧
    ((withDp { cand := some e15, points := some [⟨4368, 19⟩] }).dp.cand = some e15 ∧
      (withDp { cand := some e15, points := some [⟨4368, 19⟩] }).dp.points = some [⟨4368, 19⟩]) := by decide

theorem witness_PublishDeliversTheWholeRecord :
    assembled20.dp.decoded.toOption = some decoded20 ∧ assembled20.dp.normalized.toOption = some scan20 := by
  decide +kernel

theorem witness_OutcomeRowsWriteTheirLabel :
    ((Instr.oShort 13 = .oShort 13) ∧ (Label.short 13 = .short 13)) ∧
      ((Instr.oHalted = .oHalted) ∧ (Label.halted = .halted)) := by decide

theorem reset_inv : Inv State.reset :=
  ⟨by decide, fun b h => (by cases h), by decide, by decide⟩

theorem accum_e15_inv : Inv (accum e15) :=
  ⟨by decide, fun b h => (by cases h; rfl), by decide, by decide⟩

/-- For StepKeepsTheInvariants and StepKeepsRomAndClearsTransients. -/
theorem witness_StepKeepsTheInvariants :
    (Inv State.reset ∧ ∃ t, step State.reset = .next t) ∧
      (Inv (accum e15) ∧ ∃ t, step (given (accum e15) 0x154) = .next t) ∧ (accum e15).rom.wf :=
  ⟨⟨reset_inv, _, rfl⟩, ⟨accum_e15_inv, by
    have hs : (nextOf (step (given (accum e15) 0x154))).isSome = true := by decide +kernel
    cases h : step (given (accum e15) 0x154) with
    | next t => exact ⟨t, rfl⟩
    | fault e => rw [h] at hs; cases hs
    | refused e => rw [h] at hs; cases hs⟩,
    Memory.wf_nil⟩

/-- For PublishNeedsAnAcceptedFrameAtASyncByte and PublishedScansAreAlignedAndBounded. -/
theorem witness_PublishNeedsAnAcceptedFrameAtASyncByte :
    ∃ t S, step (given (accum f20) 0x154) = .next t ∧ t.out.scan = some S := by
  have hs : scanOf (step (given (accum f20) 0x154)) = some scan20 := by decide +kernel
  cases h : step (given (accum f20) 0x154) with
  | next t => exact ⟨t, scan20, rfl, by rw [h] at hs; exact hs⟩
  | fault e => rw [h] at hs; cases hs
  | refused e => rw [h] at hs; cases hs

/-- It stays ACCUMULATING, and it leaves by EOS. -/
theorem witness_SeekingIsLeftOnce :
    (accum [0x54]).halted = false ∧ (accum [0x54]).st = .accumulating ∧
      (∃ t, step (accum [0x54]) = .next t) ∧ ∃ t, step (given (accum [0x54]) 0x200) = .next t :=
  ⟨rfl, rfl, ⟨_, rfl⟩, ⟨_, rfl⟩⟩

/-- A halted block and a run over its one event and beyond. -/
theorem witness_HaltedIgnoresEveryEventUntilReset :
    (given stopped 0x154).halted = true ∧ ∀ x ∈ (given stopped 0x154).input, x.rst = false := by decide

theorem witness_OutputDependsOnEventAndPersistentStateOnly :
    SamePersistent (accum e14) { accum e14 with out := { label := some .start }, dp := { crcAcc := some 1 } } ∧
      (accum e14).input.head? =
        ({ accum e14 with out := { label := some .start }, dp := { crcAcc := some 1 } } : State).input.head? := by
  decide

/-- A TIMEOUT between two bytes (its byte field is ignored), where the block runs; and one after an EOS, where it
is halted. -/
theorem witness_TimeoutsCanBeInsertedAnywhere :
    ((⟨false, 0x054⟩ : Stimulus).rst = false ∧ (⟨false, 0x054⟩ : Stimulus).ev &&& 0x700 = 0) ∧
    (({ State.reset with input := byteEvents [0x54, 0x2C] } : State).input =
        byteEvents [0x54] ++ byteEvents [0x2C] ∧
      (stateAfter 1 { State.reset with input := byteEvents [0x54, 0x2C] }).map (·.halted) = some false) ∧
    ((given State.reset 0x200).input = [⟨false, 0x200⟩] ++ [] ∧
      (stateAfter 1 (given State.reset 0x200)).map (·.halted) = some true) := by decide

/-- The stream of P2. -/
theorem witness_RunOverAByteStringIsTheCutAtItsSyncBytes :
    ({ State.reset with input := byteEvents (e14 ++ [0x54, 0x54]) } : State).halted = false ∧
      ({ State.reset with input := byteEvents (e14 ++ [0x54, 0x54]) } : State).st = .seeking ∧
      ({ State.reset with input := byteEvents (e14 ++ [0x54, 0x54]) } : State).buf = [] ∧
      ({ State.reset with input := byteEvents (e14 ++ [0x54, 0x54]) } : State).input =
        byteEvents (e14 ++ [0x54, 0x54]) ++ [] := ⟨rfl, rfl, rfl, by simp⟩

/-- F20, and the frame of 15 bytes (point region of 4, the smallest with a point). -/
theorem witness_ATransmittedFrameIsPublished :
    (frame20.header = 0x54 ∧ 4 ≤ frame20.body.length ∧ (∀ b ∈ (frameBytes frame20).tail, b ≠ 0x54) ∧
      frame20.crc = crc8 State.reset.rom (frameBytes frame20).dropLast) ∧
    ∃ f : RawFrame, frameBytes f = e15 ∧ f.header = 0x54 ∧ f.body.length = 4 ∧
      (∀ b ∈ (frameBytes f).tail, b ≠ 0x54) ∧ f.crc = crc8 State.reset.rom (frameBytes f).dropLast ∧
      ({ State.reset with input := byteEvents (frameBytes f ++ [0x54]) } : State).input =
        byteEvents (frameBytes f ++ [0x54]) ++ [] :=
  ⟨by decide +kernel,
    { header := 0x54, verlen := 0x2C, speed := 100, startAngle := 0, body := [0x10, 0x11, 0x12, 0x13]
      endAngle := 0, timestamp := 0, crc := 0xB7 }, by decide +kernel, rfl, rfl, by decide +kernel, by decide +kernel, by simp⟩

end Sys2Proof.Tests
end

section
/-! PROOFS. The state after reset (R33, R215), one lemma per field of the spec's state, and O1. -/

namespace Sys2Proof.Machine

@[simp] theorem State.reset_st : State.reset.st = .seeking := rfl
@[simp] theorem State.reset_buf : State.reset.buf = [] := rfl
@[simp] theorem State.reset_halted : State.reset.halted = false := rfl
@[simp] theorem State.reset_dp : State.reset.dp = .empty := rfl

/-- R25: `Datapath.empty` register by register, none left to the defaults of the structure. -/
theorem Datapath.empty_eq_none_in_every_register :
    Datapath.empty = {
      cand := none, crcAcc := none, verdict := none, header := none, verlen := none, speed := none
      startAngle := none, endAngle := none, timestamp := none, crc := none, points := none
      endAdj := none, span := none, angleMin := none, angleMax := none, angleIncrement := none
      ranges := none, intensities := none, rangeMin := none, rangeMax := none } := rfl

/-- Settles O1: field by field, the transients through `Datapath.empty`. -/
theorem resetStateIsSeekingEmptyRunning : Obligations.ResetStateIsSeekingEmptyRunning :=
  ⟨State.reset_st, State.reset_buf, State.reset_halted,
    State.reset_dp.trans Datapath.empty_eq_none_in_every_register⟩

end Sys2Proof.Machine
end

section
/-! PROOFS. The synchronizer's rows that emit no candidate (R91 to R93, R95 to R97): when each is selected, the
state it answers as a composition of the state operations, and O9 to O14. -/

namespace Sys2Proof

/-! ### The state condition of each row -/

@[simp] theorem Instr.admits_syncStart {c : Ctx} :
    Instr.admits c .syncStart = true ↔ c.halted = false ∧ c.st = .seeking := by
  simp [Instr.admits]

@[simp] theorem Instr.admits_dataSkip {c : Ctx} {b : Byte} :
    Instr.admits c (.dataSkip b) = true ↔ c.halted = false ∧ c.st = .seeking ∧ b ≠ Config.syncByte := by
  simp [Instr.admits, and_assoc]

@[simp] theorem Instr.admits_dataAppend {c : Ctx} {b : Byte} :
    Instr.admits c (.dataAppend b) = true ↔
      c.halted = false ∧ c.st = .accumulating ∧ b ≠ Config.syncByte := by
  simp [Instr.admits, and_assoc]

@[simp] theorem Instr.admits_syncDiscard {c : Ctx} :
    Instr.admits c .syncDiscard = true ↔
      c.halted = false ∧ c.st = .accumulating ∧ c.len < Config.minLen := by
  simp [Instr.admits, and_assoc]

@[simp] theorem Instr.admits_idle {c : Ctx} : Instr.admits c .idle = true ↔ c.halted = false := by
  simp [Instr.admits]

@[simp] theorem Instr.admits_eos {c : Ctx} : Instr.admits c .eos = true ↔ c.halted = false := by
  simp [Instr.admits]

namespace Machine

/-! ### What each row answers in a state that selects it -/

/-- An admitted EVENT row whose body answers `u` answers `u` with its transients dropped. -/
theorem eventStep_next {i : Instr} {body : State → Result} {s u : State} (hadm : i.admits s.ctx = true)
    (hbody : body s.beginStep = .next u) : eventStep i body s = .next u.endStep := by
  rw [eventStep_of_admits hadm, hbody, andThen_next]

variable {s : State} {b : Byte}

theorem exec_syncStart (hadm : Instr.admits s.ctx .syncStart = true) :
    exec .syncStart s = .next (s.beginStep.setLabel .start).bufRestart.endStep := by
  rw [exec, execSyncStart]
  exact eventStep_next hadm rfl

theorem exec_dataSkip (hadm : Instr.admits s.ctx (.dataSkip b) = true) :
    exec (.dataSkip b) s = .next (s.beginStep.setLabel (.skip b)).endStep := by
  rw [exec, execDataSkip]
  exact eventStep_next hadm rfl

/-- R22, R208: on this hardware the buffer is never full, so an admitted DATA.append does not fault. -/
theorem exec_dataAppend (hadm : Instr.admits s.ctx (.dataAppend b) = true) :
    exec (.dataAppend b) s = .next ((s.beginStep.setLabel (.append b)).bufAppend b).endStep := by
  rw [exec, execDataAppend]
  exact eventStep_next hadm (by simp)

theorem exec_syncDiscard (hadm : Instr.admits s.ctx .syncDiscard = true) :
    exec .syncDiscard s = .next (s.beginStep.raise (.short s.buf.length)).bufRestart.endStep := by
  rw [exec, execSyncDiscard]
  exact eventStep_next hadm rfl

/-- R5, D3: the timeout policy of this hardware is `retry`. -/
theorem exec_idle (hadm : Instr.admits s.ctx .idle = true) :
    exec .idle s = .next (s.beginStep.raise .idle).endStep := by
  rw [exec, execIdle]
  exact eventStep_next hadm rfl

theorem exec_eos (hadm : Instr.admits s.ctx .eos = true) :
    exec .eos s = .next (State.endStep { s.beginStep.terminate with
      out := { label := some (.eos s.buf.length), eosOut := true } }) := by
  rw [exec, execEos]
  exact eventStep_next hadm rfl

/-! ### Reads of a buffer with one byte appended -/

theorem memRead8_append_length (B : List Byte) (b : Byte) : memRead8 (B ++ [b]) B.length = some b :=
  List.getElem?_concat_length

theorem memRead8_append_of_lt {B : List Byte} {a : Nat} (b : Byte) (ha : a < B.length) :
    memRead8 (B ++ [b]) a = memRead8 B a :=
  List.getElem?_append_left ha

/-! ### The obligations: the composition of operations is, by definition, the record the statement writes out -/

/-- Settles O9: the label and the restart of the buffer, in a state that selects SYNC.start. -/
theorem syncStartBuffersTheSyncByte : Obligations.SyncStartBuffersTheSyncByte := by
  intro s hrun hst
  have hadm : Instr.admits s.ctx .syncStart = true := Instr.admits_syncStart.2 ⟨hrun, hst⟩
  exact exec_syncStart hadm

/-- Settles O10: only the label is written, in a state that selects DATA.skip. -/
theorem dataSkipChangesNothing : Obligations.DataSkipChangesNothing := by
  intro s b hrun hst hb
  have hadm : Instr.admits s.ctx (.dataSkip b) = true := Instr.admits_dataSkip.2 ⟨hrun, hst, hb⟩
  exact exec_dataSkip hadm

/-- Settles O11: the append always has room, and a read of the longer buffer is a read of the old one or of
the new byte. -/
theorem dataAppendAppendsTheByte : Obligations.DataAppendAppendsTheByte := by
  intro s b hrun hst hb
  have hadm : Instr.admits s.ctx (.dataAppend b) = true := Instr.admits_dataAppend.2 ⟨hrun, hst, hb⟩
  exact ⟨exec_dataAppend hadm, memRead8_append_length s.buf b, fun _ ha => memRead8_append_of_lt b ha⟩

/-- Settles O12: FRAMING is raised with the old length before the buffer is restarted. -/
theorem syncDiscardRestartsTheBuffer : Obligations.SyncDiscardRestartsTheBuffer := by
  intro s hrun hst hlen
  have hadm : Instr.admits s.ctx .syncDiscard = true := Instr.admits_syncDiscard.2 ⟨hrun, hst, hlen⟩
  exact exec_syncDiscard hadm

/-- Settles O13: TIMEOUT is raised and nothing else is written, in either synchronizer state. -/
theorem timeoutStepChangesNothing : Obligations.TimeoutStepChangesNothing := by
  intro s hrun
  have hadm : Instr.admits s.ctx .idle = true := Instr.admits_idle.2 hrun
  exact exec_idle hadm

/-- Settles O14: the condition of EOS does not look at the buffer, so no length keeps it from halting. -/
theorem endOfStreamDiscardsAndHalts : Obligations.EndOfStreamDiscardsAndHalts := by
  intro s hrun
  have hadm : Instr.admits s.ctx .eos = true := Instr.admits_eos.2 hrun
  exact exec_eos hadm

end Machine
end Sys2Proof
end

section
/-! PROOFS. The CRC8 validator (R110 to R113): the recursion of `crc8`, what VALIDATE answers for a short and
for a long candidate, and O23. -/

namespace Sys2Proof.Machine

/-! ### The CRC of a byte sequence (R112) -/

/-- R112, R6: the mask of the lookup changes nothing, both operands being 8 bits. -/
@[simp] theorem crcStep_eq_read (rom : Memory) (acc b : Byte) : crcStep rom acc b = rom.read (acc ^^^ b) :=
  congrArg rom.read (BitVec.and_allOnes (x := acc ^^^ b))

@[simp] theorem crc8_nil (rom : Memory) : crc8 rom [] = 0 := rfl

@[simp] theorem crc8_concat (rom : Memory) (M : List Byte) (b : Byte) :
    crc8 rom (M ++ [b]) = rom.read (crc8 rom M ^^^ b) := by
  rw [crc8, List.foldl_concat, ← crc8, crcStep_eq_read]

/-! ### The verdict (R110, R111, R113) -/

/-- R113: the candidate split into the bytes the CRC covers and the carried checksum. -/
theorem validateOp_concat {rom : Memory} {d : Datapath} {M : List Byte} {k : Byte}
    (hc : d.cand = some (M ++ [k])) (hl : 13 ≤ M.length) :
    validateOp rom d = .ok
      { d with crcAcc := some (crc8 rom M), verdict := some (decide (crc8 rom M = k)) } := by
  have hlen : (M ++ [k]).length - 1 = M.length := by simp
  have hverdict : (some k == some (crc8 rom M)) = decide (crc8 rom M = k) := by
    rw [Option.some_beq_some, BEq.comm, beq_eq_decide]
  rw [validateOp_long hc (by simpa using hl), hlen, List.take_left, List.getElem?_concat_length, hverdict]

variable {s : State}

theorem exec_validate_short {B : List Byte} (hc : s.dp.cand = some B) (hl : B.length < 14) :
    exec .validate s = .next { s with dp := { s.dp with verdict := some false } } :=
  onDatapath_ok (validateOp_short hc hl)

theorem exec_validate_concat {M : List Byte} {k : Byte} (hc : s.dp.cand = some (M ++ [k]))
    (hl : 13 ≤ M.length) :
    exec .validate s = .next { s with dp := { s.dp with
      crcAcc := some (crc8 s.rom M), verdict := some (decide (crc8 s.rom M = k)) } } :=
  onDatapath_ok (validateOp_concat hc hl)

/-- Settles O23: the two lengths of a candidate, and the fold of the CRC taken from its last byte. -/
theorem validateComparesTheCrcOfAllButTheLastByte :
    Obligations.ValidateComparesTheCrcOfAllButTheLastByte :=
  ⟨fun _ _ hc hl => exec_validate_short hc hl, fun _ _ _ hc hl => exec_validate_concat hc hl,
    fun rom => ⟨crc8_nil rom, crc8_concat rom⟩⟩

end Sys2Proof.Machine
end

section
/-! PROOFS. The frame decoder (R125 to R133): the point loop in closed form, DECODE as the closed-form view of its
candidate, what the single field rows answer, and O25 to O27. -/

namespace Sys2Proof.Machine

open Sys2Proof.Safety

/-! ### The point loop (R133, R134) -/

/-- R133, R134: the loop test holds at exactly the strides the count counts. -/
theorem lt_pointCount_iff {L : Nat} (hl : 14 ≤ L) (k : Nat) : k < pointCount L ↔ 6 + 3 * k < L - 8 := by
  unfold pointCount
  omega

/-- R67: there are fewer points than bytes, so the loop's fuel is enough. -/
theorem pointCount_le {L : Nat} (hl : 14 ≤ L) : pointCount L ≤ L := by
  unfold pointCount
  omega

variable {B : List Byte}

/-- R66: the point of a stride, its three bytes read inside the buffer. -/
theorem pointAt_stride {k : Nat} (hk : 6 + 3 * k < B.length - 8) :
    pointAt B (6 + 3 * k) = some (pointView B k) := by
  have hhigh : 7 + 3 * k = 6 + 3 * k + 1 := by omega
  have hintensity : 9 + 3 * k = 6 + 3 * k + 3 := by omega
  rw [pointAt_of_lt (by omega), pointView, hhigh, hintensity]
  congr <;> exact (List.getD_eq_getElem B 0 (by omega)).symm

/-- R133: one turn of the loop. -/
theorem pointLoop_succ_of_lt {fuel i : Nat} {p : Point} {ps : List Point} (hi : i < B.length - 8)
    (hp : pointAt B i = some p) (hps : pointLoop B fuel (i + 3) = some ps) :
    pointLoop B (fuel + 1) i = some (p :: ps) := by
  have htest : i < B.length - Config.tailGuard := hi
  have hrest : pointLoop B fuel (i + Config.stride) = some ps := hps
  simp only [pointLoop, if_pos htest, hp, hrest]

/-- R133: the end of the loop. -/
theorem pointLoop_of_le {fuel i : Nat} (hi : B.length - 8 ≤ i) : pointLoop B fuel i = some [] := by
  have htest : ¬ i < B.length - Config.tailGuard := Nat.not_lt.2 hi
  cases fuel with
  | zero => rfl
  | succ n => exact if_neg htest

/-- R133: from stride `k` on, the loop gives the points `k, k + 1, ..., N - 1`. -/
theorem pointLoop_stride (hl : 14 ≤ B.length) (fuel k : Nat) (hfuel : pointCount B.length ≤ k + fuel) :
    pointLoop B fuel (6 + 3 * k) =
      some ((List.range' k (pointCount B.length - k)).map (pointView B)) := by
  induction fuel generalizing k with
  | zero =>
    rw [Nat.sub_eq_zero_of_le (show pointCount B.length ≤ k from hfuel)]
    rfl
  | succ n ih =>
    by_cases hk : k < pointCount B.length
    · have hi := (lt_pointCount_iff hl k).1 hk
      have hcount : pointCount B.length - k = pointCount B.length - (k + 1) + 1 := by omega
      rw [hcount, List.range'_succ, List.map_cons]
      exact pointLoop_succ_of_lt hi (pointAt_stride hi) (ih (k + 1) (by omega))
    · have hi := mt (lt_pointCount_iff hl k).2 hk
      rw [Nat.sub_eq_zero_of_le (Nat.not_lt.1 hk), pointLoop_of_le (Nat.not_lt.1 hi)]
      rfl

/-- R133, R134: the points of a candidate, in closed form. -/
theorem pointLoop_eq_decodedView (hl : 14 ≤ B.length) :
    pointLoop B B.length Config.pointBase = some (decodedView B).points := by
  have h := pointLoop_stride hl B.length 0 (by simpa using pointCount_le hl)
  rwa [Nat.sub_zero, ← List.range_eq_range'] at h

/-! ### DECODE (R125) -/

variable {s : State}

/-- R125 to R133: DECODE writes the closed-form view of its candidate, register by register. -/
theorem decodeOp_eq_decodedView {d : Datapath} (hc : d.cand = some B) (hl : 14 ≤ B.length) :
    decodeOp d = .ok { d with
      header := some (decodedView B).header, verlen := some (decodedView B).verlen
      speed := some (decodedView B).speed, startAngle := some (decodedView B).startAngle
      endAngle := some (decodedView B).endAngle, timestamp := some (decodedView B).timestamp
      crc := some (decodedView B).crc, points := some (decodedView B).points } := by
  obtain ⟨ps, hps, hd⟩ := decodeOp_ok hc hl
  obtain rfl : (decodedView B).points = ps := Option.some.inj ((pointLoop_eq_decodedView hl).symm.trans hps)
  have hend : B.length - 5 + 1 = B.length - 4 := by omega
  have htime : B.length - 3 + 1 = B.length - 2 := by omega
  have hget : ∀ (a : Nat) (ha : a < B.length), B[a] = B.getD a 0 :=
    fun _ ha => (List.getD_eq_getElem B 0 ha).symm
  rw [hd]
  simp only [hget, hend, htime, decodedView]

theorem exec_decode (hc : s.dp.cand = some B) (hl : 14 ≤ B.length) :
    exec .decode s = .next { s with dp := { s.dp with
      header := some (decodedView B).header, verlen := some (decodedView B).verlen
      speed := some (decodedView B).speed, startAngle := some (decodedView B).startAngle
      endAngle := some (decodedView B).endAngle, timestamp := some (decodedView B).timestamp
      crc := some (decodedView B).crc, points := some (decodedView B).points } } :=
  onDatapath_ok (decodeOp_eq_decodedView hc hl)

/-! ### The rows of one byte (R126, R127, R132) -/

theorem exec_decodeHeader (hc : s.dp.cand = some B) (hl : 14 ≤ B.length) :
    exec .decodeHeader s = .next { s with dp := { s.dp with header := B[0]? } } := by
  rw [List.getElem?_eq_getElem (by omega)]
  exact onDatapath_ok (headerOp_ok hc hl)

theorem exec_decodeVerlen (hc : s.dp.cand = some B) (hl : 14 ≤ B.length) :
    exec .decodeVerlen s = .next { s with dp := { s.dp with verlen := B[1]? } } := by
  rw [List.getElem?_eq_getElem (by omega)]
  exact onDatapath_ok (verlenOp_ok hc hl)

theorem exec_decodeCrc (hc : s.dp.cand = some B) (hl : 14 ≤ B.length) :
    exec .decodeCrc s = .next { s with dp := { s.dp with crc := B[B.length - 1]? } } := by
  rw [List.getElem?_eq_getElem (by omega)]
  exact onDatapath_ok (crcOp_ok hc hl)

/-! ### The rows of two bytes (R128 to R131) -/

/-- R8, R65: the two bytes of a word by their offsets, the second one written in any form. -/
theorem le16_getElem_eq {b0 b1 : Byte} {a a1 : Nat} (h : a + 1 < B.length) (ha1 : a1 = a + 1)
    (h0 : B[a]? = some b0) (h1 : B[a1]? = some b1) : le16 B[a] B[a + 1] = le16 b0 b1 := by
  subst ha1
  obtain ⟨-, rfl⟩ := List.getElem?_eq_some_iff.1 h0
  obtain ⟨-, rfl⟩ := List.getElem?_eq_some_iff.1 h1
  rfl

variable {b0 b1 : Byte}

theorem exec_decodeSpeed (hc : s.dp.cand = some B) (hl : 14 ≤ B.length) (h0 : B[2]? = some b0)
    (h1 : B[3]? = some b1) :
    exec .decodeSpeed s = .next { s with dp := { s.dp with speed := some (le16 b0 b1) } } := by
  rw [← le16_getElem_eq (by omega) rfl h0 h1]
  exact onDatapath_ok (speedOp_ok hc hl)

theorem exec_decodeStartAngle (hc : s.dp.cand = some B) (hl : 14 ≤ B.length) (h0 : B[4]? = some b0)
    (h1 : B[5]? = some b1) :
    exec .decodeStartAngle s = .next { s with dp := { s.dp with startAngle := some (le16 b0 b1) } } := by
  rw [← le16_getElem_eq (by omega) rfl h0 h1]
  exact onDatapath_ok (startAngleOp_ok hc hl)

theorem exec_decodeEndAngle (hc : s.dp.cand = some B) (hl : 14 ≤ B.length)
    (h0 : B[B.length - 5]? = some b0) (h1 : B[B.length - 4]? = some b1) :
    exec .decodeEndAngle s = .next { s with dp := { s.dp with endAngle := some (le16 b0 b1) } } := by
  rw [← le16_getElem_eq (by omega) (by omega) h0 h1]
  exact onDatapath_ok (endAngleOp_ok hc hl)

theorem exec_decodeTimestamp (hc : s.dp.cand = some B) (hl : 14 ≤ B.length)
    (h0 : B[B.length - 3]? = some b0) (h1 : B[B.length - 2]? = some b1) :
    exec .decodeTimestamp s = .next { s with dp := { s.dp with timestamp := some (le16 b0 b1) } } := by
  rw [← le16_getElem_eq (by omega) (by omega) h0 h1]
  exact onDatapath_ok (timestampOp_ok hc hl)

/-! ### The obligations -/

/-- Settles O25: `decodedView` is, by definition, the record the statement writes out. -/
theorem decodeFillsEveryField : Obligations.DecodeFillsEveryField :=
  fun _ _ hc hl => ⟨exec_decode hc hl, lt_pointCount_iff hl⟩

/-- Settles O26: the three offsets are inside a candidate of 14 bytes. -/
theorem byteFieldRowsReadTheirByte : Obligations.ByteFieldRowsReadTheirByte :=
  fun _ _ hc hl => ⟨exec_decodeHeader hc hl, exec_decodeVerlen hc hl, exec_decodeCrc hc hl⟩

/-- Settles O27: `le16` is, by definition, R8's formula, which the statement writes out. -/
theorem wordFieldRowsReadLittleEndian : Obligations.WordFieldRowsReadLittleEndian :=
  fun _ _ _ _ hc hl => ⟨exec_decodeSpeed hc hl, exec_decodeStartAngle hc hl, exec_decodeEndAngle hc hl,
    exec_decodeTimestamp hc hl⟩

end Sys2Proof.Machine
end

section
/-! PROOFS. The normalizer (R145 to R153): the least and the greatest of a sequence, the unit conversions, what the
single output rows answer, ASSEMBLE as the closed-form view of its frame, and O32, O33 and O35 to O38. -/

namespace Sys2Proof.Machine

open Sys2Proof.Safety

/-! ### Least and greatest (R7) -/

theorem minOf_eq_foldl_min (r : Rat) (rs : List Rat) : minOf r rs = rs.foldl min r := by
  have hstep : (fun m x : Rat => if x < m then x else m) = min := by
    funext m x
    exact (min_def_lt' m x).symm
  rw [minOf, hstep]

theorem maxOf_eq_foldl_max (r : Rat) (rs : List Rat) : maxOf r rs = rs.foldl max r := by
  have hstep : (fun m x : Rat => if m < x then x else m) = max := by
    funext m x
    exact (max_def_lt m x).symm
  rw [maxOf, hstep]

/-- R7: `minOf` is the library's least element, so the library's laws of it apply. -/
theorem min?_cons_eq_minOf (r : Rat) (rs : List Rat) : (r :: rs).min? = some (minOf r rs) := by
  rw [minOf_eq_foldl_min, List.min?_cons']

theorem max?_cons_eq_maxOf (r : Rat) (rs : List Rat) : (r :: rs).max? = some (maxOf r rs) := by
  rw [maxOf_eq_foldl_max, List.max?_cons']

/-- R152: a monotone conversion can be done before or after the minimum is taken. -/
theorem minOf_map_of_monotone {f : Nat → Rat} (hf : Monotone f) (n : Nat) (ns : List Nat) :
    minOf (f n) (ns.map f) = f ((n :: ns).min?.getD 0) := by
  rw [minOf_eq_foldl_min, List.foldl_map, List.min?_cons', Option.getD_some]
  exact List.foldl_hom f fun _ _ => hf.map_min.symm

theorem maxOf_map_of_monotone {f : Nat → Rat} (hf : Monotone f) (n : Nat) (ns : List Nat) :
    maxOf (f n) (ns.map f) = f ((n :: ns).max?.getD 0) := by
  rw [maxOf_eq_foldl_max, List.foldl_map, List.max?_cons', Option.getD_some]
  exact List.foldl_hom f fun _ _ => hf.map_max.symm

/-! ### Units (R5, R9, R154) -/

theorem cdegPerDeg_cast : (Config.cdegPerDeg : Rat) = 100 := Nat.cast_ofNat
theorem mmPerM_cast : (Config.mmPerM : Rat) = 1000 := Nat.cast_ofNat

/-- R154: hundredths of a degree in radians. -/
theorem radians_cdeg (c : Rat) : radians (c / (Config.cdegPerDeg : Rat)) = ⟨c / 18000⟩ := by
  rw [radians, cdegPerDeg_cast, div_div]
  norm_num

/-- R154: hundredths of a degree per sample, in radians. -/
theorem radians_cdeg_div (c n : Rat) :
    radians (c / (Config.cdegPerDeg : Rat) / n) = ⟨c / (18000 * n)⟩ := by
  rw [div_right_comm, radians_cdeg, div_div, mul_comm n]

/-- R150, R152: metres are monotone in millimetres. -/
theorem monotone_metres : Monotone fun n : Nat => (n : Rat) / 1000 :=
  fun _ _ h => div_le_div_of_nonneg_right (Nat.cast_le.2 h) (by norm_num)

/-! ### Wraparound and span (R148, R149) -/

theorem wrapAdjust_of_lt {s e : U16} (h : e.toNat < s.toNat) : wrapAdjust s e = e.toNat + 36000 := if_pos h

theorem wrapAdjust_of_le {s e : U16} (h : s.toNat ≤ e.toNat) : wrapAdjust s e = e.toNat :=
  if_neg (Nat.not_lt.2 h)

theorem spanOf_wrapAdjust_of_lt {s e : U16} (h : e.toNat < s.toNat) :
    spanOf (wrapAdjust s e) s = (e.toNat : Int) + 36000 - (s.toNat : Int) := by
  rw [wrapAdjust_of_lt h, spanOf, Nat.cast_add, Nat.cast_ofNat]

theorem spanOf_wrapAdjust_of_le {s e : U16} (h : s.toNat ≤ e.toNat) :
    spanOf (wrapAdjust s e) s = (e.toNat : Int) - (s.toNat : Int) := by
  rw [wrapAdjust_of_le h, spanOf]

theorem spanOf_wrapAdjust_eq_spanView (F : DecodedFrame) :
    spanOf (wrapAdjust F.startAngle F.endAngle) F.startAngle = spanView F := by
  by_cases h : F.endAngle.toNat < F.startAngle.toNat
  · rw [spanOf_wrapAdjust_of_lt h, spanView, if_pos h]
  · rw [spanOf_wrapAdjust_of_le (Nat.not_lt.1 h), spanView, if_neg h]

theorem spanOf_cast (adj : Nat) (s : U16) : (spanOf adj s : Rat) = (adj : Rat) - (s.toNat : Rat) := by
  rw [spanOf, Int.cast_sub, Int.cast_natCast, Int.cast_natCast]

/-! ### What the single rows write (R146 to R153) -/

section

variable {d : Datapath} {s e : U16} {ps : List Point}

theorem angleMinOp_ok (hs : d.startAngle = some s) :
    angleMinOp d = .ok { d with angleMin := some ⟨(s.toNat : Rat) / 18000⟩ } := by
  rw [← radians_cdeg]
  simp only [angleMinOp, hs, need_some]
  rfl

theorem angleMaxOp_ok (he : d.endAngle = some e) :
    angleMaxOp d = .ok { d with angleMax := some ⟨(e.toNat : Rat) / 18000⟩ } := by
  rw [← radians_cdeg]
  simp only [angleMaxOp, he, need_some]
  rfl

theorem wrapOp_ok (hs : d.startAngle = some s) (he : d.endAngle = some e) :
    wrapOp d = .ok { d with
      endAdj := some (wrapAdjust s e), span := some (spanOf (wrapAdjust s e) s) } := by
  simp only [wrapOp, hs, he, need_some]
  rfl

/-- R149: the guard against no points is passed. -/
theorem angleIncrementOp_ok {adj : Nat} (hs : d.startAngle = some s) (ha : d.endAdj = some adj)
    (hp : d.points = some ps) (hne : ps ≠ []) :
    angleIncrementOp d = .ok { d with
      span := some (spanOf adj s)
      angleIncrement := some ⟨(spanOf adj s : Rat) / (18000 * (ps.length : Rat))⟩ } := by
  have hlen : ps.length ≠ 0 := mt List.length_eq_zero_iff.1 hne
  rw [← radians_cdeg_div]
  simp only [angleIncrementOp, hs, ha, hp, need_some]
  exact if_neg hlen

theorem rangesOp_ok (hp : d.points = some ps) :
    rangesOp d = .ok { d with ranges := some (ps.map fun p => (p.distance.toNat : Rat) / 1000) } := by
  simp only [rangesOp, hp, need_some, mmPerM_cast]
  rfl

theorem intensitiesOp_ok (hp : d.points = some ps) :
    intensitiesOp d = .ok { d with intensities := some (ps.map (·.intensity)) } := by
  simp only [intensitiesOp, hp, need_some]
  rfl

theorem rangeMinOp_ok {r : Rat} {rs : List Rat} (hr : d.ranges = some (r :: rs)) :
    rangeMinOp d = .ok { d with rangeMin := some (minOf r rs) } := by
  simp only [rangeMinOp, hr, need_some]
  rfl

theorem rangeMaxOp_ok {r : Rat} {rs : List Rat} (hr : d.ranges = some (r :: rs)) :
    rangeMaxOp d = .ok { d with rangeMax := some (maxOf r rs) } := by
  simp only [rangeMaxOp, hr, need_some]
  rfl

end

/-! ### The closed-form scan (R150, R152, R153) -/

/-- R150: in `scanView` the cast to the rationals is a pass over the list of its own. -/
theorem scanView_ranges (F : DecodedFrame) :
    (scanView F).ranges = F.points.map fun p => (p.distance.toNat : Rat) / 1000 := by
  rw [scanView]
  simp only [List.bind_eq_flatMap, List.pure_def, ← List.map_eq_flatMap, List.map_map]
  rfl

section

variable {F : DecodedFrame} {p : Point} {ps : List Point}

theorem scanView_rangeMin (hps : F.points = p :: ps) :
    (scanView F).rangeMin = minOf ((p.distance.toNat : Rat) / 1000)
      (ps.map fun q => (q.distance.toNat : Rat) / 1000) := by
  have hmin := minOf_map_of_monotone monotone_metres p.distance.toNat (ps.map (·.distance.toNat))
  rw [List.map_map] at hmin
  rw [scanView, hps]
  exact hmin.symm

theorem scanView_rangeMax (hps : F.points = p :: ps) :
    (scanView F).rangeMax = maxOf ((p.distance.toNat : Rat) / 1000)
      (ps.map fun q => (q.distance.toNat : Rat) / 1000) := by
  have hmax := maxOf_map_of_monotone monotone_metres p.distance.toNat (ps.map (·.distance.toNat))
  rw [List.map_map] at hmax
  rw [scanView, hps]
  exact hmax.symm

end

/-! ### ASSEMBLE (R145) -/

/-- R145 to R153: ASSEMBLE writes the closed-form scan of its frame, register by register. -/
theorem assembleOp_eq_scanView {d : Datapath} {F : DecodedFrame} (hs : d.startAngle = some F.startAngle)
    (he : d.endAngle = some F.endAngle) (hp : d.points = some F.points) (hne : F.points ≠ []) :
    assembleOp d = .ok { d with
      endAdj := some (wrapAdjust F.startAngle F.endAngle), span := some (spanView F)
      angleMin := some (scanView F).angleMin, angleMax := some (scanView F).angleMax
      angleIncrement := some (scanView F).angleIncrement
      ranges := some (scanView F).ranges, intensities := some (scanView F).intensities
      rangeMin := some (scanView F).rangeMin, rangeMax := some (scanView F).rangeMax } := by
  obtain ⟨p, ps, hps⟩ := List.exists_cons_of_ne_nil hne
  rw [assembleOp_ok hs he (hp.trans (congrArg some hps)), ← hps, scanView_ranges, scanView_rangeMin hps,
    scanView_rangeMax hps]
  simp only [radians_cdeg, radians_cdeg_div, spanOf_wrapAdjust_eq_spanView, mmPerM_cast]
  rfl

theorem exec_assemble {t : State} {F : DecodedFrame} (hs : t.dp.startAngle = some F.startAngle)
    (he : t.dp.endAngle = some F.endAngle) (hp : t.dp.points = some F.points) (hne : F.points ≠ []) :
    exec .assemble t = .next { t with dp := { t.dp with
      endAdj := some (wrapAdjust F.startAngle F.endAngle), span := some (spanView F)
      angleMin := some (scanView F).angleMin, angleMax := some (scanView F).angleMax
      angleIncrement := some (scanView F).angleIncrement
      ranges := some (scanView F).ranges, intensities := some (scanView F).intensities
      rangeMin := some (scanView F).rangeMin, rangeMax := some (scanView F).rangeMax } } :=
  onDatapath_ok (assembleOp_eq_scanView hs he hp hne)

/-- R145, U1, D18. -/
theorem exec_assemble_empty {t : State} (hp : t.dp.points = some []) :
    exec .assemble t = .refused .assembleEmpty :=
  onDatapath_error (assembleOp_empty hp)

/-! ### The obligations -/

/-- Settles O38: `wrapAdjust` is, by definition, the case split the statement writes out. -/
theorem assembleFillsTheScan : Obligations.AssembleFillsTheScan :=
  ⟨fun _ _ hs he hp hne => exec_assemble hs he hp hne, fun _ hp => exec_assemble_empty hp⟩

/-- Settles O35: the span is written as `spanOf` and divided in its cast to the rationals. -/
theorem angleIncrementDividesTheSpanByTheCount : Obligations.AngleIncrementDividesTheSpanByTheCount := by
  intro t s adj ps hs ha hp hne
  rw [← spanOf_cast]
  exact onDatapath_ok (angleIncrementOp_ok hs ha hp hne)

/-- Settles O37: the two folds are the library's least and greatest element of the list. -/
theorem rangeBoundsAreTheLeastAndGreatestRange : Obligations.RangeBoundsAreTheLeastAndGreatestRange := by
  intro t rs hr hne
  obtain ⟨r, rs, rfl⟩ := List.exists_cons_of_ne_nil hne
  obtain ⟨hmin, hle⟩ := List.min?_eq_some_iff.1 (min?_cons_eq_minOf r rs)
  obtain ⟨hmax, hge⟩ := List.max?_eq_some_iff.1 (max?_cons_eq_maxOf r rs)
  exact ⟨minOf r rs, maxOf r rs, onDatapath_ok (rangeMinOp_ok hr), onDatapath_ok (rangeMaxOp_ok hr), hmin, hmax,
    fun x hx => ⟨hle x hx, hge x hx⟩⟩

/-- Settles O32: each row converts the angle as decoded. -/
theorem angleBoundsAreTheDecodedAnglesInRadians : Obligations.AngleBoundsAreTheDecodedAnglesInRadians :=
  fun _ _ _ => ⟨fun hs => onDatapath_ok (angleMinOp_ok hs), fun he => onDatapath_ok (angleMaxOp_ok he)⟩

/-- Settles O33: the two cases of the comparison, the adjusted end angle and the span in each. -/
theorem wrapCorrectionIsOnNaturals : Obligations.WrapCorrectionIsOnNaturals := by
  intro t s e hs he
  refine ⟨fun hlt => ?_, fun hle => ?_⟩
  · rw [← spanOf_wrapAdjust_of_lt hlt, ← wrapAdjust_of_lt hlt]
    exact onDatapath_ok (wrapOp_ok hs he)
  · rw [← spanOf_wrapAdjust_of_le hle, ← wrapAdjust_of_le hle]
    exact onDatapath_ok (wrapOp_ok hs he)

/-- Settles O36: both rows map over the same list of points. -/
theorem rangesAndIntensitiesAreElementwise : Obligations.RangesAndIntensitiesAreElementwise :=
  fun _ _ hp => ⟨onDatapath_ok (rangesOp_ok hp), onDatapath_ok (intensitiesOp_ok hp)⟩

end Sys2Proof.Machine
end

section
/-! PROOFS. The dispatch of a step (R171, R216): the class of an event word by its bits, the row each context and
class selects, and O4. -/

namespace Sys2Proof

/-! ### The event word, bit by bit (R60, R61) -/

variable (ev : EventWord)

theorem hits_stop_eq_getLsbD : EventWord.hits ev 0x400 0x400 = ev.getLsbD 10 := by
  have h10 : ev &&& 0x400 = if ev.getLsbD 10 then 0x400 else 0 := BitVec.and_twoPow ev 10
  rw [EventWord.hits, h10]
  cases ev.getLsbD 10 <;> rfl

theorem hits_eos_eq_getLsbD : EventWord.hits ev 0x600 0x200 = (!ev.getLsbD 10 && ev.getLsbD 9) := by
  have h10 : ev &&& 0x400 = if ev.getLsbD 10 then 0x400 else 0 := BitVec.and_twoPow ev 10
  have h9 : ev &&& 0x200 = if ev.getLsbD 9 then 0x200 else 0 := BitVec.and_twoPow ev 9
  have hmask : ev &&& 0x600 = (ev &&& 0x400) ||| (ev &&& 0x200) := by
    rw [← BitVec.and_or_distrib_left]
    rfl
  rw [EventWord.hits, hmask, h10, h9]
  cases ev.getLsbD 10 <;> cases ev.getLsbD 9 <;> rfl

theorem hits_timeout_eq_getLsbD :
    EventWord.hits ev 0x700 0x000 = (!ev.getLsbD 10 && !ev.getLsbD 9 && !ev.getLsbD 8) := by
  have h10 : ev &&& 0x400 = if ev.getLsbD 10 then 0x400 else 0 := BitVec.and_twoPow ev 10
  have h9 : ev &&& 0x200 = if ev.getLsbD 9 then 0x200 else 0 := BitVec.and_twoPow ev 9
  have h8 : ev &&& 0x100 = if ev.getLsbD 8 then 0x100 else 0 := BitVec.and_twoPow ev 8
  have hmask : ev &&& 0x700 = (ev &&& 0x400) ||| ((ev &&& 0x200) ||| (ev &&& 0x100)) := by
    rw [← BitVec.and_or_distrib_left, ← BitVec.and_or_distrib_left]
    rfl
  rw [EventWord.hits, hmask, h10, h9, h8]
  cases ev.getLsbD 10 <;> cases ev.getLsbD 9 <;> cases ev.getLsbD 8 <;> rfl

/-- R61: the highest set bit of bits 10, 9 and 8 decides the class; the byte is what is below them. -/
theorem classify_eq_getLsbD :
    classify ev =
      if ev.getLsbD 10 then .stop
      else if ev.getLsbD 9 then .eos
      else if ev.getLsbD 8 then .byte (ev.extractLsb' 0 8)
      else .timeout := by
  rw [classify, hits_stop_eq_getLsbD, hits_eos_eq_getLsbD, hits_timeout_eq_getLsbD,
    BitVec.setWidth_eq_extractLsb' (by omega)]
  cases ev.getLsbD 10 <;> cases ev.getLsbD 9 <;> cases ev.getLsbD 8 <;> rfl

variable {ev}

theorem classify_of_bit10 (h10 : ev.getLsbD 10 = true) : classify ev = .stop := by
  rw [classify_eq_getLsbD, if_pos h10]

theorem classify_of_bit9 (h10 : ev.getLsbD 10 = false) (h9 : ev.getLsbD 9 = true) : classify ev = .eos := by
  rw [classify_eq_getLsbD, h10, h9]
  rfl

theorem classify_of_bits_clear (h10 : ev.getLsbD 10 = false) (h9 : ev.getLsbD 9 = false)
    (h8 : ev.getLsbD 8 = false) : classify ev = .timeout := by
  rw [classify_eq_getLsbD, h10, h9, h8]
  rfl

theorem classify_of_bit8 (h10 : ev.getLsbD 10 = false) (h9 : ev.getLsbD 9 = false)
    (h8 : ev.getLsbD 8 = true) : classify ev = .byte (ev.extractLsb' 0 8) := by
  rw [classify_eq_getLsbD, h10, h9, h8]
  rfl

/-! ### The row a byte selects (R76, R91 to R95) -/

variable {c : Ctx} {b : Byte}

theorem selectByte_sync_seeking (hst : c.st = .seeking) : selectByte c Config.syncByte = .syncStart := by
  simp [selectByte, hst]

theorem selectByte_sync_long (hst : c.st = .accumulating) (hl : Config.minLen ≤ c.len) :
    selectByte c Config.syncByte = .syncEmit := by
  simp [selectByte, hst, hl]

theorem selectByte_sync_short (hst : c.st = .accumulating) (hl : c.len < Config.minLen) :
    selectByte c Config.syncByte = .syncDiscard := by
  simp [selectByte, hst, Nat.not_le.2 hl]

theorem selectByte_data_seeking (hb : b ≠ Config.syncByte) (hst : c.st = .seeking) :
    selectByte c b = .dataSkip b := by
  simp [selectByte, hb, hst]

theorem selectByte_data_accumulating (hb : b ≠ Config.syncByte) (hst : c.st = .accumulating) :
    selectByte c b = .dataAppend b := by
  simp [selectByte, hb, hst]

/-! ### The row an input selects (R171, R216) -/

@[simp] theorem selectInput_rst : selectInput c true ev = .reset := rfl

theorem selectInput_of_halted (hh : c.halted = true) : selectInput c false ev = .halted := by
  simp [selectInput, selectEvent, hh]

section

variable (hrun : c.halted = false)

include hrun

theorem selectInput_of_stop (hc : classify ev = .stop) : selectInput c false ev = .stop := by
  simp [selectInput, selectEvent, hrun, hc]

theorem selectInput_of_eos (hc : classify ev = .eos) : selectInput c false ev = .eos := by
  simp [selectInput, selectEvent, hrun, hc]

theorem selectInput_of_timeout (hc : classify ev = .timeout) : selectInput c false ev = .idle := by
  simp [selectInput, selectEvent, hrun, hc]

theorem selectInput_of_byte (hc : classify ev = .byte b) : selectInput c false ev = selectByte c b := by
  simp [selectInput, selectEvent, hrun, hc]

end

namespace Machine

/-! ### The row a step runs -/

/-- R171: a step that selects `i` is `exec i` in the state without the stimulus. -/
theorem step_of_selectInput {s : State} {x : Stimulus} {xs : List Stimulus} {i : Instr}
    (hin : s.input = x :: xs) (hi : selectInput s.ctx x.rst x.ev = i) :
    step s = exec i { s with input := xs } := by
  rw [step_cons hin, hi]

/-- Settles O4: each clause names the row that `selectInput` gives; the words are split by their bits, the bytes
by the synchronizer's state and the length. -/
theorem stepSelectsItsRowByPriority : Obligations.StepSelectsItsRowByPriority := by
  rintro s ⟨rst, ev⟩ xs hin
  have run : ∀ {i : Instr}, selectInput s.ctx rst ev = i → step s = exec i { s with input := xs } :=
    step_of_selectInput hin
  refine ⟨?rst, ?halted, ?running⟩
  case rst =>
    rintro rfl
    exact run selectInput_rst
  case halted =>
    rintro rfl hh
    exact run (selectInput_of_halted hh)
  case running =>
    rintro rfl hrun
    refine ⟨?stop, ?eos, ?timeout, ?byte⟩
    case stop =>
      intro h10
      exact run (selectInput_of_stop hrun (classify_of_bit10 h10))
    case eos =>
      intro h10 h9
      exact run (selectInput_of_eos hrun (classify_of_bit9 h10 h9))
    case timeout =>
      intro h10 h9 h8
      exact run (selectInput_of_timeout hrun (classify_of_bits_clear h10 h9 h8))
    case byte =>
      rintro h10 h9 h8 b rfl
      have select := selectInput_of_byte (c := s.ctx) hrun (classify_of_bit8 h10 h9 h8)
      refine ⟨fun hb hst => ?_, fun hb hst hl => ?_, fun hb hst hl => ?_, fun hb hst => ?_, fun hb hst => ?_⟩
      · exact run (select.trans (hb ▸ selectByte_sync_seeking hst))
      · exact run (select.trans (hb ▸ selectByte_sync_long hst hl))
      · exact run (select.trans (hb ▸ selectByte_sync_short hst hl))
      · exact run (select.trans (selectByte_data_seeking hb hst))
      · exact run (select.trans (selectByte_data_accumulating hb hst))

end Machine
end Sys2Proof
end

section
/-! PROOFS. Termination (R175, R177): what STOP and HALTED answer, a run of a halted block, and O15, O16 and O53. -/

namespace Sys2Proof

@[simp] theorem Instr.admits_stop {c : Ctx} : Instr.admits c .stop = true ↔ c.halted = false := by
  simp [Instr.admits]

@[simp] theorem Instr.admits_halted {c : Ctx} : Instr.admits c .halted = true ↔ c.halted = true := by
  simp [Instr.admits]

namespace Machine

open Sys2Proof.Safety

variable {s : State}

/-- R5, D6: the stop policy of this hardware is `immediate`. -/
theorem exec_stop (hadm : Instr.admits s.ctx .stop = true) :
    exec .stop s = .next (s.beginStep.setLabel (.stop s.buf.length)).terminate.endStep := by
  rw [exec, execStop]
  exact eventStep_next hadm rfl

theorem exec_halted (hadm : Instr.admits s.ctx .halted = true) :
    exec .halted s = .next (s.beginStep.setLabel .halted).endStep := by
  rw [exec, execHalted]
  exact eventStep_next hadm rfl

/-- Settles O15: the label takes the old length before the buffer is cleared; the condition of STOP does not look
at the buffer. -/
theorem stopDiscardsAndHalts : Obligations.StopDiscardsAndHalts := by
  intro s hrun
  have hadm : Instr.admits s.ctx .stop = true := Instr.admits_stop.2 hrun
  exact exec_stop hadm

/-- Settles O16: only the label is written. -/
theorem haltedRowIgnoresTheEvent : Obligations.HaltedRowIgnoresTheEvent := by
  intro s hh
  have hadm : Instr.admits s.ctx .halted = true := Instr.admits_halted.2 hh
  exact exec_halted hadm

/-! ### Runs -/

theorem outputs_succ {n : Nat} {t : State} (h : step s = .next t) :
    outputs (n + 1) s = t.out :: outputs n t := by
  rw [outputs, h]

theorem stateAfter_succ {n : Nat} {t : State} (h : step s = .next t) :
    stateAfter (n + 1) s = stateAfter n t := by
  rw [stateAfter, h]

/-- R177: the step of a halted block, unless a reset is presented; past the end of the list too. -/
theorem step_of_halted (hh : s.halted = true) (hin : ∀ x ∈ s.input, x.rst = false) :
    step s = .next { s with input := s.input.tail, dp := .empty, out := { label := some .halted } } := by
  have hsel : ∀ ev, selectInput s.ctx false ev = .halted := fun _ => selectInput_of_halted hh
  cases hi : s.input with
  | nil =>
    rw [step_nil hi, hsel, haltedRowIgnoresTheEvent s hh, List.tail_nil, ← hi]
    rfl
  | cons x xs =>
    have hrst : x.rst = false := hin x (hi ▸ List.mem_cons_self)
    rw [step_cons hi, hrst, hsel]
    exact haltedRowIgnoresTheEvent _ hh

/-- Settles O53, by induction on the number of steps: the step leaves a halted state whose remaining input still
holds no reset. -/
theorem haltedIgnoresEveryEventUntilReset : Obligations.HaltedIgnoresEveryEventUntilReset := by
  intro n
  induction n with
  | zero => exact fun s _ _ => ⟨rfl, s, rfl, rfl, rfl, rfl, rfl⟩
  | succ n ih =>
    intro s hh hin
    have hstep := step_of_halted hh hin
    rw [outputs_succ hstep, stateAfter_succ hstep]
    obtain ⟨hout, hafter⟩ :=
      ih { s with input := s.input.tail, dp := .empty, out := { label := some .halted } } hh
        fun x hx => hin x (List.mem_of_mem_tail hx)
    exact ⟨congrArg _ hout, hafter⟩

end Machine
end Sys2Proof
end

section
/-! PROOFS. Candidate resolution (R94, R172 to R174): the internal rows on a candidate, `resolve` as a run of these
rows, and O21. -/

namespace Sys2Proof

@[simp] theorem Instr.admits_syncEmit {c : Ctx} :
    Instr.admits c .syncEmit = true ↔
      c.halted = false ∧ c.st = .accumulating ∧ Config.minLen ≤ c.len := by
  simp [Instr.admits, and_assoc]

namespace Machine

open Sys2Proof.Safety

variable {s s1 s2 s3 s4 s5 t : State} {B : List Byte}

/-! ### The internal rows on a candidate -/

/-- R125: DECODE keeps the candidate and fills the DecodedFrame with its closed-form view. -/
theorem exec_decode_gives (hc : s.dp.cand = some B) (hl : 14 ≤ B.length) :
    ∃ t, exec .decode s = .next t ∧ t.dp.cand = some B ∧ t.dp.decoded = .ok (decodedView B) :=
  ⟨_, exec_decode hc hl, hc, Datapath.decoded_eq_ok.2 ⟨rfl, rfl, rfl, rfl, rfl, rfl, rfl, rfl⟩⟩

/-- R174: the guard answers on any candidate that was decoded, and writes outputs alone. -/
theorem exec_emptyGuard_keeps_dp {ps : List Point} (hc : s.dp.cand = some B) (hp : s.dp.points = some ps) :
    ∃ t, exec .emptyGuard s = .next t ∧ t.dp = s.dp := by
  cases ps with
  | nil => exact ⟨_, runEmptyGuard_empty hc hp, rfl⟩
  | cons p ps => exact ⟨_, runEmptyGuard_points hc hp, rfl⟩

/-- R145, R173: with a decoded frame that has points in the transients, ASSEMBLE gives PUBLISH all it reads. -/
theorem exec_assemble_publish {F : DecodedFrame} (hF : s.dp.decoded = .ok F) (hne : F.points ≠ []) :
    ∃ t u, exec .assemble s = .next t ∧ exec .publish t = .next u := by
  obtain ⟨-, -, -, hs, he, -, -, hp⟩ := Datapath.decoded_eq_ok.1 hF
  exact ⟨_, _, exec_assemble hs he hp hne,
    runPublish_ok (S := scanView F) hF (Datapath.normalized_eq_ok.2 ⟨rfl, rfl, rfl, rfl, rfl, rfl, rfl⟩)⟩

/-- R193: the label of a rejected candidate carries its length, the computed and the carried CRC. -/
theorem raiseCrc_ok {computed carried : Byte} (hc : s.dp.cand = some B) (hl : 14 ≤ B.length)
    (ha : s.dp.crcAcc = some computed) (hk : B.getLast? = some carried) :
    raiseCrc s = .next (s.raise (.crcReject B.length computed carried)) := by
  have hread : readCandidate (fun B => memRead8 B (B.length - 1)) s.dp = .ok carried :=
    readCandidate_ok hc hl (List.getLast?_eq_getElem?.symm.trans hk)
  have hlabel : rejectLabel s.dp = .ok (.crcReject B.length computed carried) := by
    simp only [rejectLabel, hc, ha, hread, need_some]
    rfl
  rw [raiseCrc, hlabel]

/-! ### The resolution as a run of the rows (R172) -/

section

variable (hvalidate : exec .validate s = .next s1)

include hvalidate in
theorem resolve_of_reject (hv : s1.dp.verdict = some false) : resolve s = raiseCrc s1 := by
  have h1 : runValidate s = .next s1 := hvalidate
  simp [resolve, h1, hv]

variable (hv : s1.dp.verdict = some true) (hdecode : exec .decode s1 = .next s2)
  (hguard : exec .emptyGuard s2 = .next s3)

include hvalidate hv hdecode hguard

theorem resolve_of_empty (hp : s3.dp.points = some []) : resolve s = .next s3 := by
  have h1 : runValidate s = .next s1 := hvalidate
  have h2 : runDecode s1 = .next s2 := hdecode
  have h3 : runEmptyGuard s2 = .next s3 := hguard
  simp [resolve, h1, hv, h2, h3, hp]

theorem resolve_of_points (hp : s3.dp.points ≠ some []) (hassemble : exec .assemble s3 = .next s4)
    (hpublish : exec .publish s4 = .next s5) : resolve s = .next s5 := by
  have h1 : runValidate s = .next s1 := hvalidate
  have h2 : runDecode s1 = .next s2 := hdecode
  have h3 : runEmptyGuard s2 = .next s3 := hguard
  have h4 : runAssemble s3 = .next s4 := hassemble
  have h5 : runPublish s4 = .next s5 := hpublish
  simp [resolve, h1, hv, h2, h3, hp, h4, h5]

end

/-! ### SYNC.emit (R94) -/

theorem exec_syncEmit (hadm : Instr.admits s.ctx .syncEmit = true)
    (hres : resolve s.beginStep.emitCandidate = .next t) : exec .syncEmit s = .next t.endStep := by
  rw [exec, execSyncEmit]
  exact eventStep_next hadm hres

/-- R94: the candidate handed over and the restarted buffer, in a state that accumulates. -/
theorem beginStep_emitCandidate_eq (hst : s.st = .accumulating) :
    s.beginStep.emitCandidate = { s with buf := [0x54], dp := { cand := some s.buf }, out := {} } := by
  cases s
  subst hst
  rfl

/-- Settles O21: VALIDATE's verdict, then, on accept, the points DECODE gives, decide which of the rows run; each
of the three ends is `resolve` on a run of these rows. -/
theorem emitRunsTheInternalRowsInOrder : Obligations.EmitRunsTheInternalRowsInOrder := by
  intro s hrun hst hl
  rw [← beginStep_emitCandidate_eq hst]
  have emit : ∀ {t : State}, resolve s.beginStep.emitCandidate = .next t → exec .syncEmit s = .next t.endStep :=
    exec_syncEmit (Instr.admits_syncEmit.2 ⟨hrun, hst, hl⟩)
  obtain ⟨d1, computed, verdict, hop, hc, ha, hverdict⟩ := validateOp_gives (rom := s.rom)
    (show s.beginStep.emitCandidate.dp.cand = some s.buf from rfl) hl
  have hvalidate : exec .validate s.beginStep.emitCandidate = .next { s.beginStep.emitCandidate with dp := d1 } :=
    onDatapath_ok hop
  refine ⟨_, hvalidate, fun hreject => ?reject, fun haccept => ?accept, ?verdict⟩
  case reject =>
    have hk : s.buf.getLast? = some s.buf[s.buf.length - 1] := by
      rw [List.getLast?_eq_getElem?, List.getElem?_eq_getElem]
    exact ⟨computed, _, ha, hk,
      emit ((resolve_of_reject hvalidate hreject).trans (raiseCrc_ok hc hl ha hk))⟩
  case accept =>
    obtain ⟨s2, hdecode, hc2, hF⟩ := exec_decode_gives (s := { s.beginStep.emitCandidate with dp := d1 }) hc hl
    obtain ⟨-, -, -, -, -, -, -, hp⟩ := Datapath.decoded_eq_ok.1 hF
    obtain ⟨s3, hguard, hdp⟩ := exec_emptyGuard_keeps_dp hc2 hp
    refine ⟨s2, s3, hdecode, hguard, fun hempty => ?_, fun hpoints => ?_⟩
    · exact emit (resolve_of_empty hvalidate haccept hdecode hguard (hdp ▸ hempty))
    · have hne : (decodedView s.buf).points ≠ [] := fun h => hpoints (hp.trans (congrArg some h))
      obtain ⟨s4, s5, hassemble, hpublish⟩ := exec_assemble_publish (hdp ▸ hF) hne
      exact ⟨s4, s5, hassemble, hpublish,
        emit (resolve_of_points hvalidate haccept hdecode hguard (hdp ▸ hpoints) hassemble hpublish)⟩
  case verdict =>
    cases verdict with
    | false => exact .inl hverdict
    | true => exact .inr hverdict

end Machine
end Sys2Proof
end

section
/-! PROOFS. The fault classes CRC and EMPTY (R193, R194): the two ends of a resolution that publish nothing, and O18
and O19. -/

namespace Sys2Proof.Machine

open Sys2Proof.Safety

variable {s : State} {M B : List Byte} {k : Byte}

/-- R94, R172: SYNC.emit leaves the restarted buffer and the output of the resolution; the transients that the
resolution leaves are dropped. -/
theorem exec_syncEmit_of_resolve {d : Datapath} {o : Output} (hrun : s.halted = false)
    (hst : s.st = .accumulating) (hl : 14 ≤ s.buf.length)
    (hres : resolve s.beginStep.emitCandidate = .next { s.beginStep.emitCandidate with dp := d, out := o }) :
    exec .syncEmit s = .next { s with buf := [0x54], dp := {}, out := o } := by
  have hadm : Instr.admits s.ctx .syncEmit = true := Instr.admits_syncEmit.2 ⟨hrun, hst, hl⟩
  rw [exec_syncEmit hadm hres, beginStep_emitCandidate_eq hst]
  rfl

/-- R172, R193: a candidate whose CRC does not match ends at VALIDATE. -/
theorem resolve_of_crc_ne (hc : s.dp.cand = some (M ++ [k])) (hl : 13 ≤ M.length) (hbad : crc8 s.rom M ≠ k) :
    ∃ d, resolve s = .next { s with
      dp := d, out := { label := some (.crcReject (M.length + 1) (crc8 s.rom M) k) } } := by
  have hvalidate := exec_validate_concat hc hl
  have hreject := resolve_of_reject hvalidate (congrArg some (decide_eq_false hbad))
  have hlen : (M ++ [k]).length = M.length + 1 := by simp
  have hraise := hreject.trans (raiseCrc_ok hc (by omega) rfl List.getLast?_concat)
  exact ⟨_, hlen ▸ hraise⟩

/-- R174: a candidate of 14 bytes has no points. -/
theorem decodedView_points_eq_nil (hB : B.length = 14) : (decodedView B).points = [] := by
  simp [decodedView, pointCount, hB]

/-- R172, R174, R194: an accepted candidate of 14 bytes ends at EMPTYGUARD. -/
theorem resolve_of_crc_eq_empty (hc : s.dp.cand = some (M ++ [k])) (hl : M.length = 13)
    (hok : crc8 s.rom M = k) :
    ∃ d, resolve s = .next { s with dp := d, out := { label := some (.empty 14) } } := by
  have hlen : (M ++ [k]).length = 14 := by simp [hl]
  have hpoints := congrArg some (decodedView_points_eq_nil hlen)
  have hvalidate := exec_validate_concat hc hl.ge
  have hdecode := exec_decode (s := { s with dp := { s.dp with
    crcAcc := some (crc8 s.rom M), verdict := some (decide (crc8 s.rom M = k)) } }) hc hlen.ge
  have hempty := resolve_of_empty hvalidate (congrArg some (decide_eq_true hok)) hdecode
    (runEmptyGuard_empty hc hpoints) hpoints
  exact ⟨_, hlen ▸ hempty⟩

/-- Settles O18: the resolution ends at VALIDATE, so neither DECODE nor ASSEMBLE is invoked. -/
theorem emitRejectsABadCrc : Obligations.EmitRejectsABadCrc := by
  intro s M k hrun hst hbuf hl hbad
  have hlen : 14 ≤ s.buf.length := by simpa [hbuf] using hl
  obtain ⟨d, hres⟩ := resolve_of_crc_ne (s := s.beginStep.emitCandidate) (congrArg some hbuf) hl hbad
  exact exec_syncEmit_of_resolve hrun hst hlen hres

/-- Settles O19: the resolution ends at EMPTYGUARD, so ASSEMBLE is not invoked. -/
theorem emitSkipsAnEmptyFrame : Obligations.EmitSkipsAnEmptyFrame := by
  intro s M k hrun hst hbuf hl hok
  have hlen : 14 ≤ s.buf.length := by simp [hbuf, hl]
  obtain ⟨d, hres⟩ := resolve_of_crc_eq_empty (s := s.beginStep.emitCandidate) (congrArg some hbuf) hl hok
  exact exec_syncEmit_of_resolve hrun hst hlen hres

end Sys2Proof.Machine
end

section
/-! PROOFS. No error is a hard failure (R195, R208): every step answers a next state with the ROM kept, the three
labels a step that leaves the block halted can report, and O46 and O47. -/

namespace Sys2Proof

variable {ev : EventWord}

theorem bit10_of_classify (hc : classify ev = .stop) : ev.getLsbD 10 = true := by
  rw [classify_eq_getLsbD] at hc
  split_ifs at hc with h10
  exact h10

theorem bit9_of_classify (hc : classify ev = .eos) : ev.getLsbD 9 = true := by
  rw [classify_eq_getLsbD] at hc
  split_ifs at hc with h10 h9
  exact h9

namespace Machine

variable {s s1 t : State} {x : Stimulus}

/-! ### The fetch -/

@[simp] theorem State.fetch_rom (s : State) : s.fetch.2.rom = s.rom := by
  rcases s.fetch_cases with ⟨-, h⟩ | ⟨x, xs, -, h⟩ <;> rw [h]

/-- A word that is not TIMEOUT was listed: nothing listed is presented as TIMEOUT (log entry 2). -/
theorem State.input_of_fetch (hf : s.fetch = (x, s1)) (hx : classify x.ev ≠ .timeout) :
    s.input = x :: s1.input := by
  rcases s.fetch_cases with ⟨-, h⟩ | ⟨y, ys, hin, h⟩
  · cases hf.symm.trans h
    exact absurd classify_timeout hx
  · cases hf.symm.trans h
    exact hin

/-! ### The step -/

/-- R195: no fault and no refusal ends a run. -/
theorem step_answers_next (s : State) : ∃ t, step s = .next t := by
  obtain ⟨-, -, t, -, hstep, -⟩ := step_cases s
  exact ⟨t, hstep⟩

/-- R30, R47: no step writes the ROM. -/
theorem step_keeps_rom (hstep : step s = .next t) : t.rom = s.rom := by
  obtain ⟨x, s1, t', hf, hstep', hcases⟩ := step_cases s
  cases hstep.symm.trans hstep'
  have hrom : s1.rom = s.rom := by rw [← State.fetch_rom s, hf]
  rw [← hrom]
  rcases hcases with ⟨-, rfl⟩ | ⟨-, -, rfl⟩ | ⟨-, -, hrow⟩
  · rfl
  · rfl
  · rcases hrow with ⟨-, rfl⟩ | ⟨-, rfl⟩ | ⟨-, rfl⟩ | ⟨_, -, -, -, rfl⟩ | ⟨_, -, -, -, rfl⟩ |
      ⟨-, _, rfl, -⟩ <;> rfl

/-- R175 to R177: a step leaves the block halted only where it was halted, or by a STOP or an EOS; its label says
which. -/
theorem halted_after_step (hstep : step s = .next t) (hh : t.halted = true) :
    (s.halted = true ∧ t.out.label = some .halted) ∨
      ∃ x xs, s.input = x :: xs ∧
        ((x.ev.getLsbD 10 = true ∧ t.out.label = some (.stop s.buf.length)) ∨
          (x.ev.getLsbD 9 = true ∧ t.out.label = some (.eos s.buf.length))) := by
  obtain ⟨x, s1, t', hf, hstep', hcases⟩ := step_cases s
  cases hstep.symm.trans hstep'
  have hctx : s1.ctx = s.ctx := by rw [← State.fetch_ctx s, hf]
  rcases hcases with ⟨-, rfl⟩ | ⟨-, hwas, rfl⟩ | ⟨-, hrun, hrow⟩
  · cases hh
  · exact .inl ⟨(congrArg Ctx.halted hctx).symm.trans hwas, rfl⟩
  · have hlen : s1.buf.length = s.buf.length := congrArg Ctx.len hctx
    rcases hrow with ⟨hc, rfl⟩ | ⟨hc, rfl⟩ | ⟨-, rfl⟩ | ⟨_, -, -, -, rfl⟩ | ⟨_, -, -, -, rfl⟩ |
      ⟨-, _, rfl, -⟩
    · exact .inr ⟨x, _, State.input_of_fetch hf (by simp [hc]), .inl ⟨bit10_of_classify hc, by rw [hlen]⟩⟩
    · exact .inr ⟨x, _, State.input_of_fetch hf (by simp [hc]), .inr ⟨bit9_of_classify hc, by rw [hlen]⟩⟩
    all_goals exact absurd (hrun.symm.trans hh) Bool.false_ne_true

/-- R190: none of the labels of a halted block is a fault class. -/
theorem halted_eq_false_of_faultClass {l : Label} {c : FaultClass} (hstep : step s = .next t)
    (hl : t.out.label = some l) (hc : l.faultClass = some c) : t.halted = false := by
  refine Bool.eq_false_iff.2 fun hh => ?_
  rcases halted_after_step hstep hh with ⟨-, h⟩ | ⟨x, xs, -, ⟨-, h⟩ | ⟨-, h⟩⟩
  all_goals
    cases hl.symm.trans h
    cases hc

/-! ### The obligations -/

/-- Settles O46: the row is the fault by definition, and a step answers a next state. -/
theorem overflowIsAFaultOfTheModel : Obligations.OverflowIsAFaultOfTheModel := by
  refine ⟨fun _ => rfl, fun s hfault => ?_⟩
  obtain ⟨t, hnext⟩ := step_answers_next s
  cases hfault.symm.trans hnext

/-- Settles O47, from what a step that leaves the block halted can have been. -/
theorem stepNeverStops : Obligations.StepNeverStops := by
  intro s
  obtain ⟨t, hstep⟩ := step_answers_next s
  refine ⟨t, hstep, step_keeps_rom hstep, fun hh => ?_, fun _ _ => halted_eq_false_of_faultClass hstep⟩
  rcases halted_after_step hstep hh with ⟨hwas, -⟩ | ⟨x, xs, hin, hword⟩
  · exact .inl hwas
  · exact .inr ⟨x, xs, hin, hword.imp And.left And.left⟩

end Machine
end Sys2Proof
end

section
/-! PROOFS. Reset (R215, R216): what the row answers in every state, and O17. -/

namespace Sys2Proof.Machine

/-- R215, R31: the reset state with the ROM and the remaining input of `s`; unlike the EVENT rows, RESET has no
state condition. -/
theorem exec_reset (s : State) :
    exec .reset s = .next { State.reset with rom := s.rom, input := s.input } := by
  rw [exec, execReset]

/-- R216: an input with rst runs RESET whatever its event word is, in the state without that stimulus. -/
theorem step_of_rst {s : State} {ev : EventWord} {xs : List Stimulus}
    (hin : s.input = { rst := true, ev := ev } :: xs) :
    step s = .next { State.reset with rom := s.rom, input := xs } := by
  rw [step_of_selectInput hin selectInput_rst, exec_reset]

/-- Settles O17: the row and the step answer the reset state with the ROM kept, and every other field of that
state has the value stated. -/
theorem resetOverridesEverything : Obligations.ResetOverridesEverything := by
  intro s
  refine ⟨?row, fun ev xs hin => ?step⟩
  case row => exact exec_reset s
  case step => exact step_of_rst hin

end Sys2Proof.Machine
end

section
/-! PROOFS. Encoding (R60 to R64, R73): the round trip of every row that has a code, DECODE of the bytes of a frame,
the fixed words and codes of the tables, and O5 to O8, O44 and O45. -/

namespace Sys2Proof

open Laws Machine Safety

/-! ### The round trip of the encoder -/

/-- R61, R63, R64, R73: the decoder reads every row's code back, row by row. -/
theorem decode_encode (i : Instr) : RoundTrip.Statement i :=
  match i with
  | .halted => RoundTrip.halted
  | .stop => RoundTrip.stop
  | .eos => RoundTrip.eos
  | .idle => RoundTrip.idle
  | .syncStart => RoundTrip.syncStart
  | .syncEmit => RoundTrip.syncEmit
  | .syncDiscard => RoundTrip.syncDiscard
  | .dataSkip b => RoundTrip.dataSkip b
  | .dataAppend b => RoundTrip.dataAppend b
  | .reset => RoundTrip.reset
  | .validate => RoundTrip.validate
  | .decode => RoundTrip.decode
  | .emptyGuard => RoundTrip.emptyGuard
  | .assemble => RoundTrip.assemble
  | .publish => RoundTrip.publish
  | .frame f => RoundTrip.frame f
  | .frame14 v sp a x6 x7 x8 e t k => RoundTrip.frame14 v sp a x6 x7 x8 e t k
  | .decodeHeader => RoundTrip.decodeHeader
  | .decodeVerlen => RoundTrip.decodeVerlen
  | .decodeSpeed => RoundTrip.decodeSpeed
  | .decodeStartAngle => RoundTrip.decodeStartAngle
  | .decodeEndAngle => RoundTrip.decodeEndAngle
  | .decodeTimestamp => RoundTrip.decodeTimestamp
  | .decodeCrc => RoundTrip.decodeCrc
  | .decodePoints => RoundTrip.decodePoints
  | .assembleAngleMin => RoundTrip.assembleAngleMin
  | .assembleAngleMax => RoundTrip.assembleAngleMax
  | .assembleWrap => RoundTrip.assembleWrap
  | .assembleAngleIncrement => RoundTrip.assembleAngleIncrement
  | .assembleRanges => RoundTrip.assembleRanges
  | .assembleIntensities => RoundTrip.assembleIntensities
  | .assembleRangeMin => RoundTrip.assembleRangeMin
  | .assembleRangeMax => RoundTrip.assembleRangeMax
  | .oIdle => RoundTrip.oIdle
  | .oSkip b => RoundTrip.oSkip b
  | .oStart => RoundTrip.oStart
  | .oAppend b => RoundTrip.oAppend b
  | .oShort n => RoundTrip.oShort n
  | .oCrcReject n a b => RoundTrip.oCrcReject n a b
  | .oEmpty n => RoundTrip.oEmpty n
  | .oPublish F S => RoundTrip.oPublish F S
  | .oEos n => RoundTrip.oEos n
  | .oStop n => RoundTrip.oStop n
  | .oHalted => RoundTrip.oHalted
  | .oOverflow => RoundTrip.oOverflow

/-- Settles O7: the round trip of each row. -/
theorem decodeOfEncodeIsTheInstruction : Obligations.DecodeOfEncodeIsTheInstruction :=
  decode_encode

/-! ### DECODE of the bytes of a frame (R63, R66) -/

section

variable (f : RawFrame)

/-- R63: the point region begins at offset 6. -/
theorem frameBytes_getD_body {a n : Nat} (hn : n = 6 + a) (ha : a < f.body.length) :
    (frameBytes f).getD n 0 = f.body.getD a 0 := by
  rw [hn, frameBytes, List.append_assoc, List.getD_append_right _ _ _ _ (Nat.le_add_right 6 a)]
  simpa using List.getD_append _ _ _ _ ha

/-- R63: the five bytes after the point region, by their distance from the end. -/
theorem frameBytes_getD_tail {a b : Nat} (hab : a + b = 5) :
    (frameBytes f).getD ((frameBytes f).length - b) 0 =
      [lo f.endAngle, hi f.endAngle, lo f.timestamp, hi f.timestamp, f.crc].getD a 0 := by
  have hsplit : (frameBytes f).length - b =
      ([f.header, f.verlen, lo f.speed, hi f.speed, lo f.startAngle, hi f.startAngle] ++ f.body).length + a := by
    simp [frameBytes_length]
    omega
  rw [hsplit, frameBytes, List.getD_append_right _ _ _ _ (Nat.le_add_right _ a), Nat.add_sub_cancel_left]

/-- R66: the points of a frame's bytes are those of its point region. -/
theorem decodedView_points_frameBytes : (decodedView (frameBytes f)).points = (frameView f).points := by
  have hcount : pointCount (frameBytes f).length = (f.body.length - 1) / 3 := by
    rw [frameBytes_length, pointCount]
    omega
  simp only [decodedView, frameView, hcount]
  refine List.map_congr_left fun k hk => ?_
  have hlast : 3 * k + 3 < f.body.length := by
    have := List.mem_range.1 hk
    omega
  have hlow := frameBytes_getD_body f (show 6 + 3 * k = 6 + 3 * k from rfl) (by omega)
  have hhigh := frameBytes_getD_body f (show 7 + 3 * k = 6 + (3 * k + 1) by omega) (by omega)
  have hintensity := frameBytes_getD_body f (show 9 + 3 * k = 6 + (3 * k + 3) by omega) hlast
  rw [pointView, hlow, hhigh, hintensity]

/-- R63, R66: the closed-form reading of a frame's bytes gives the frame's fields back. -/
theorem decodedView_frameBytes : decodedView (frameBytes f) = frameView f := by
  have hpoints := decodedView_points_frameBytes f
  simp only [decodedView, frameView, DecodedFrame.mk.injEq] at hpoints ⊢
  refine ⟨rfl, rfl, le16_lo_hi f.speed, le16_lo_hi f.startAngle, ?endAngle, ?timestamp, ?crc, hpoints⟩
  case endAngle =>
    rw [frameBytes_getD_tail f (a := 0) rfl, frameBytes_getD_tail f (a := 1) rfl]
    exact le16_lo_hi f.endAngle
  case timestamp =>
    rw [frameBytes_getD_tail f (a := 2) rfl, frameBytes_getD_tail f (a := 3) rfl]
    exact le16_lo_hi f.timestamp
  case crc => exact frameBytes_getD_tail f (a := 4) rfl

end

/-- Settles O8: DECODE writes the closed-form reading of its candidate, which is here the frame's. -/
theorem decodeGivesTheFieldsOfAFrameBack : Obligations.DecodeGivesTheFieldsOfAFrameBack := by
  intro s f hbody hcand
  have hl : 14 ≤ (frameBytes f).length := by
    rw [frameBytes_length]
    omega
  have hdecode := exec_decode hcand hl
  rwa [decodedView_frameBytes] at hdecode

/-! ### Fixed words, codes and labels -/

/-- Settles O5: the words are evaluated one by one. -/
theorem wordsDecodeAsTheSpecWritesThem : Obligations.WordsDecodeAsTheSpecWritesThem := by
  refine ⟨?_, ?_, ?_, ?_, ?_, ?_, ?_, ?_, ?_, fun _ => ?_, fun _ => ?_, fun _ => ?_⟩ <;> rfl

/-- R73, U13: codes 12 to 15 are rejected before the payload is looked at. -/
theorem decodeOutcome_reserved (code : BitVec 4) (p : Payload) (hcode : 12 ≤ code.toNat) :
    decodeOutcome code p = .error .reservedOutcome := by
  unfold decodeOutcome
  split
  case h_13 => rw [if_neg (by omega)]
  all_goals omega

/-- R190: a fault class has the code of the label that reports it. -/
theorem code_of_faultClass {l : Label} {c : FaultClass} (h : l.faultClass = some c) : c.code = l.code := by
  cases l <;> cases h <;> rfl

/-- Settles O6: the two columns of the table are read off the definitions. -/
theorem outcomeAndFaultCodesAreTheTables : Obligations.OutcomeAndFaultCodesAreTheTables := by
  refine ⟨fun F S b k n => ?table, decodeOutcome_reserved, fun _ _ => code_of_faultClass, ?_, ?_, ?_, ?_⟩
  case table => exact ⟨rfl, rfl, rfl, rfl, rfl, rfl, rfl, rfl, rfl, rfl, rfl, rfl,
    rfl, rfl, rfl, rfl, rfl, rfl, rfl, rfl, rfl, rfl, rfl, rfl⟩
  all_goals rfl

/-- Settles O44: both rows present the bytes of their layout. -/
theorem frameRowsPresentTheirBytes : Obligations.FrameRowsPresentTheirBytes :=
  ⟨fun _ _ => rfl, fun _ _ _ _ _ _ _ _ _ _ => rfl⟩

/-- Settles O45: one case per row and its label; the payload is the one the encoder gives it. -/
theorem outcomeRowsWriteTheirLabel : Obligations.OutcomeRowsWriteTheirLabel := by
  rintro s b k n F S i l h
  rcases h with ⟨rfl, rfl⟩ | ⟨rfl, rfl⟩ | ⟨rfl, rfl⟩ | ⟨rfl, rfl⟩ | ⟨rfl, rfl⟩ | ⟨rfl, rfl⟩ | ⟨rfl, rfl⟩ |
    ⟨rfl, rfl⟩ | ⟨rfl, rfl⟩ | ⟨rfl, rfl⟩ | ⟨rfl, rfl⟩ <;> exact ⟨rfl, _, rfl⟩

end Sys2Proof
end

section
/-! PROOFS. What DECODE reads of its candidate (R66, R68, R134), what a CRC over an injective table detects (R116),
and O24, O28 and O31. -/

namespace Sys2Proof.Machine

open Sys2Proof.Safety

/-! ### The points (R133, R134) and the offsets read (R68) -/

section

variable {B C : List Byte}

/-- R134. -/
theorem pointCount_eq (hl : 14 ≤ B.length) : pointCount B.length = (B.length - 12) / 3 := by
  unfold pointCount
  omega

/-- R133, R134: DECODE.points writes the points of the closed-form reading. -/
theorem exec_decodePoints {s : State} (hc : s.dp.cand = some B) (hl : 14 ≤ B.length) :
    exec .decodePoints s = .next { s with dp := { s.dp with points := some (decodedView B).points } } :=
  onDatapath_ok (pointsOp_ok hc hl (pointLoop_eq_decodedView hl))

/-- R66: point `k` of the closed-form reading, of the bytes it is read from. -/
theorem decodedView_points_getElem? (hl : 14 ≤ B.length) {k : Nat} {b0 b1 x : Byte}
    (hk : 6 + 3 * k < B.length - 8) (h0 : B[6 + 3 * k]? = some b0) (h1 : B[6 + 3 * k + 1]? = some b1)
    (hx : B[6 + 3 * k + 3]? = some x) :
    (decodedView B).points[k]? = some { distance := le16 b0 b1, intensity := x } := by
  have hcount : k < pointCount B.length := (lt_pointCount_iff hl k).2 hk
  have hhigh : 7 + 3 * k = 6 + 3 * k + 1 := by omega
  have hintensity : 9 + 3 * k = 6 + 3 * k + 3 := by omega
  simp only [decodedView, List.getElem?_map, List.getElem?_range hcount, Option.map_some, pointView,
    hhigh, hintensity, List.getD_eq_getElem?_getD, h0, h1, hx, Option.getD_some]

/-- R68: the offsets DECODE reads of a candidate of length `L`. -/
def ReadOffset (L a : Nat) : Prop :=
  a < 6 ∨ (L - 5 ≤ a ∧ a < L) ∨ ∃ k, 6 + 3 * k < L - 8 ∧ (a = 6 + 3 * k ∨ a = 7 + 3 * k ∨ a = 9 + 3 * k)

/-- R68: the closed-form reading depends on the length and the bytes at the offsets read, and on no other byte. -/
theorem decodedView_congr (hlen : B.length = C.length) (hl : 14 ≤ B.length)
    (hread : ∀ a, ReadOffset B.length a → B[a]? = C[a]?) : decodedView B = decodedView C := by
  have hget : ∀ a, ReadOffset B.length a → B.getD a 0 = C.getD a 0 := by
    intro a ha
    rw [List.getD_eq_getElem?_getD, List.getD_eq_getElem?_getD, hread a ha]
  have hhead : ∀ a, a < 6 → B.getD a 0 = C.getD a 0 := fun a ha => hget a (.inl ha)
  have htail : ∀ b, 1 ≤ b → b ≤ 5 → B.getD (B.length - b) 0 = C.getD (C.length - b) 0 := by
    intro b h1 h5
    rw [← hlen]
    exact hget _ (.inr (.inl ⟨by omega, by omega⟩))
  have hpoint : ∀ k, 6 + 3 * k < B.length - 8 → pointView B k = pointView C k := by
    intro k hk
    rw [pointView, pointView, hget (6 + 3 * k) (.inr (.inr ⟨k, hk, .inl rfl⟩)),
      hget (7 + 3 * k) (.inr (.inr ⟨k, hk, .inr (.inl rfl)⟩)),
      hget (9 + 3 * k) (.inr (.inr ⟨k, hk, .inr (.inr rfl)⟩))]
  have hpoints : (decodedView B).points = (decodedView C).points := by
    simp only [decodedView, ← hlen]
    exact List.map_congr_left fun k hk => hpoint k ((lt_pointCount_iff hl k).1 (List.mem_range.1 hk))
  simp only [decodedView, DecodedFrame.mk.injEq] at hpoints ⊢
  exact ⟨hhead 0 (by omega), hhead 1 (by omega), congrArg₂ le16 (hhead 2 (by omega)) (hhead 3 (by omega)),
    congrArg₂ le16 (hhead 4 (by omega)) (hhead 5 (by omega)),
    congrArg₂ le16 (htail 5 (by omega) (by omega)) (htail 4 (by omega) (by omega)),
    congrArg₂ le16 (htail 3 (by omega) (by omega)) (htail 2 (by omega) (by omega)),
    htail 1 (by omega) (by omega), hpoints⟩

end

/-- R77: the DecodedFrame registers written, register by register. -/
def Datapath.writeFrame (d : Datapath) (F : DecodedFrame) : Datapath :=
  { d with
    header := some F.header, verlen := some F.verlen, speed := some F.speed, startAngle := some F.startAngle
    endAngle := some F.endAngle, timestamp := some F.timestamp, crc := some F.crc, points := some F.points }

/-- R125: DECODE writes the closed-form reading of its candidate. -/
theorem exec_decode_writeFrame {s : State} {B : List Byte} (hc : s.dp.cand = some B) (hl : 14 ≤ B.length) :
    exec .decode s = .next { s with dp := s.dp.writeFrame (decodedView B) } :=
  exec_decode hc hl

/-- Settles O28: the points written are those of the closed-form reading. -/
theorem pointsRowExtractsEveryStride : Obligations.PointsRowExtractsEveryStride := by
  intro s B hc hl
  refine ⟨(decodedView B).points, exec_decodePoints hc hl, ?count, fun k b0 b1 x hk h0 h1 hx => ?point⟩
  case count => simpa [decodedView] using pointCount_eq hl
  case point => exact decodedView_points_getElem? hl hk h0 h1 hx

/-- Settles O31: DECODE writes the closed-form reading, which is the same for both candidates. -/
theorem unreadBytesDoNotReachTheDecodedFrame : Obligations.UnreadBytesDoNotReachTheDecodedFrame := by
  intro s B C hlen hl hread
  refine ⟨s.dp.writeFrame (decodedView B), exec_decode_writeFrame rfl hl, ?_⟩
  rw [decodedView_congr hlen hl hread]
  exact exec_decode_writeFrame rfl (hlen ▸ hl)

/-! ### The CRC over an injective table (R112, R116) -/

section

variable {rom : Memory} (hinj : Function.Injective rom.read)

include hinj

/-- R112, R116: an injective table gives two CRCs the same entry exactly when it is looked up at the same index. -/
theorem crc8_concat_eq_iff {M N : List Byte} {a b : Byte} :
    crc8 rom (M ++ [a]) = crc8 rom (N ++ [b]) ↔ crc8 rom M ^^^ a = crc8 rom N ^^^ b := by
  rw [crc8_concat, crc8_concat, hinj.eq_iff]

/-- R116: changing one byte changes the CRC. -/
theorem crc8_set_ne {M : List Byte} {j : Nat} {v : Byte} (hj : j < M.length) (hne : M[j]? ≠ some v) :
    crc8 rom (M.set j v) ≠ crc8 rom M := by
  induction M using List.reverseRecOn with
  | nil => cases hj
  | append_singleton M b ih =>
    by_cases hjM : j < M.length
    · rw [List.getElem?_append_left hjM] at hne
      rw [List.set_append_left _ _ hjM, Ne, crc8_concat_eq_iff hinj, BitVec.xor_left_inj]
      exact ih hjM hne
    · obtain rfl : j = M.length := by
        rw [List.length_append, List.length_singleton] at hj
        omega
      have hvb : v ≠ b := fun h => hne (h ▸ List.getElem?_concat_length)
      rw [List.set_append_right _ _ le_rfl, Nat.sub_self, List.set_cons_zero, Ne, crc8_concat_eq_iff hinj,
        BitVec.xor_right_inj]
      exact hvb

end

/-- R110, R113: a candidate that VALIDATE accepts has at least 14 bytes and carries its CRC. -/
theorem exec_validate_accepts {s t : State} {B : List Byte} (hc : s.dp.cand = some B)
    (hnext : exec .validate s = .next t) (haccept : t.dp.verdict = some true) :
    ∃ M k, B = M ++ [k] ∧ 13 ≤ M.length ∧ crc8 s.rom M = k := by
  by_cases hl : B.length < 14
  · cases (exec_validate_short hc hl).symm.trans hnext
    cases haccept
  · obtain ⟨M, k, rfl⟩ := (List.eq_nil_or_concat' B).resolve_left (by rintro rfl; exact hl (by decide))
    have hM : 13 ≤ M.length := by
      rw [List.length_append, List.length_singleton] at hl
      omega
    cases (exec_validate_concat hc hM).symm.trans hnext
    exact ⟨M, k, rfl, hM, of_decide_eq_true (Option.some.inj haccept)⟩

/-- Settles O24: a change of the last byte changes the carried CRC alone, a change of any other byte changes the
computed one alone. -/
theorem singleByteChangeIsRejected : Obligations.SingleByteChangeIsRejected := by
  intro s t B j v hinj hc hnext haccept hj hne
  obtain ⟨M, k, rfl, hM, hk⟩ := exec_validate_accepts hc hnext haccept
  have reject : ∀ {M' : List Byte} {k' : Byte}, (M ++ [k]).set j v = M' ++ [k'] → 13 ≤ M'.length →
      crc8 s.rom M' ≠ k' →
      ∃ u, exec .validate { s with dp := { s.dp with cand := some ((M ++ [k]).set j v) } } = .next u ∧
        u.dp.verdict = some false := by
    intro M' k' hset hM' hcrc
    exact ⟨_, exec_validate_concat (congrArg some hset) hM', congrArg some (decide_eq_false hcrc)⟩
  by_cases hjM : j < M.length
  · rw [List.getElem?_append_left hjM] at hne
    exact reject (List.set_append_left _ _ hjM) (by simpa using hM) (hk ▸ crc8_set_ne hinj hjM hne)
  · obtain rfl : j = M.length := by
      rw [List.length_append, List.length_singleton] at hj
      omega
    have hvk : crc8 s.rom M ≠ v := fun h => hne (by rw [List.getElem?_concat_length, ← hk, h])
    exact reject (by simp) hM hvk

end Sys2Proof.Machine
end

section
/-! PROOFS. The ranges of the normalizer's intermediates (R156, R157), the reals an exact value stands for (R154,
R155), and O34, O40 and O43. -/

namespace Sys2Proof.Machine

open Sys2Proof.Safety

/-! ### The span (R148, R149) -/

section

variable {s e : U16}

/-- R156: with both angles below a full turn the span is below a full turn too, and is not negative. -/
theorem spanOf_wrapAdjust_mem_turn (hs : s.toNat ≤ 35999) (he : e.toNat ≤ 35999) :
    0 ≤ spanOf (wrapAdjust s e) s ∧ spanOf (wrapAdjust s e) s ≤ 35999 := by
  by_cases hlt : e.toNat < s.toNat
  · rw [spanOf_wrapAdjust_of_lt hlt]
    omega
  · rw [spanOf_wrapAdjust_of_le (Nat.not_lt.1 hlt)]
    omega

/-- R157: the span is zero exactly when there is no turn from the start to the end. -/
theorem spanOf_wrapAdjust_eq_zero_iff (hs : s.toNat ≤ 35999) : spanOf (wrapAdjust s e) s = 0 ↔ e = s := by
  rw [← BitVec.toNat_inj]
  by_cases hlt : e.toNat < s.toNat
  · rw [spanOf_wrapAdjust_of_lt hlt]
    omega
  · rw [spanOf_wrapAdjust_of_le (Nat.not_lt.1 hlt)]
    omega

end

/-- Settles O34: the bounds of each case of the comparison. -/
theorem wrapIntermediatesStayInRange : Obligations.WrapIntermediatesStayInRange := by
  intro t s e hs he
  have hs16 := s.isLt
  have he16 := e.isLt
  refine ⟨_, wrapAdjust s e, spanOf (wrapAdjust s e) s, onDatapath_ok (wrapOp_ok hs he), rfl, rfl, ?_⟩
  by_cases hlt : e.toNat < s.toNat
  · rw [spanOf_wrapAdjust_of_lt hlt, wrapAdjust_of_lt hlt]
    omega
  · rw [spanOf_wrapAdjust_of_le (Nat.not_lt.1 hlt), wrapAdjust_of_le (Nat.not_lt.1 hlt)]
    omega

/-- Settles O40: the increment is the span divided by a positive number. -/
theorem incrementIsNonNegativeForAnglesInRange : Obligations.IncrementIsNonNegativeForAnglesInRange := by
  intro t s e ps hs he hp hne hs' he'
  obtain ⟨p, qs, rfl⟩ := List.exists_cons_of_ne_nil hne
  refine ⟨_, _, onDatapath_ok (assembleOp_ok hs he hp), rfl, ?_⟩
  rw [radians_cdeg_div]
  have hcount : (0 : Rat) < 18000 * ((p :: qs).length : Rat) :=
    mul_pos (by norm_num) (Nat.cast_pos.2 (List.length_pos_of_ne_nil hne))
  refine ⟨div_nonneg (Int.cast_nonneg (spanOf_wrapAdjust_mem_turn hs' he').1) hcount.le, ?_⟩
  rw [div_eq_zero_iff, or_iff_left hcount.ne', Int.cast_eq_zero, spanOf_wrapAdjust_eq_zero_iff hs']

/-! ### Exact values (R154, R155) -/

/-- PI is irrational, so no rational multiple of it but 0 is rational. -/
theorem eq_zero_of_mul_pi_eq {p q : Rat} (h : (p : ℝ) * Real.pi = (q : ℝ)) : p = 0 := by
  by_contra hp
  exact (irrational_pi.ratCast_mul hp).ne_rat q h

/-- Settles O43: the difference of the coefficients times PI is the rational difference of the rest. -/
theorem exactValuesAreFaithfulToTheReals : Obligations.ExactValuesAreFaithfulToTheReals := by
  rintro ⟨q, p⟩ ⟨q', p'⟩
  refine ⟨fun h => ?_, fun h => by rw [h]⟩
  simp only at h
  have hpi : ((p - p' : Rat) : ℝ) * Real.pi = ((q' - q : Rat) : ℝ) := by
    push_cast
    linarith
  obtain rfl : p = p' := sub_eq_zero.1 (eq_zero_of_mul_pi_eq hpi)
  obtain rfl : q = q' := by simpa using h
  rfl

end Sys2Proof.Machine
end

section
/-! PROOFS. Publishing (R155, R172 to R174): EMPTYGUARD, PUBLISH, the resolution of a candidate in closed form, and
O20, O41 and O42. -/

namespace Sys2Proof.Machine

open Sys2Proof.Safety

variable {s : State}

/-! ### EMPTYGUARD (R174) and PUBLISH (R173) -/

theorem exec_emptyGuard_of_ne_nil {B : List Byte} {ps : List Point} (hc : s.dp.cand = some B)
    (hp : s.dp.points = some ps) (hne : ps ≠ []) : exec .emptyGuard s = .next s := by
  obtain ⟨p, qs, rfl⟩ := List.exists_cons_of_ne_nil hne
  exact runEmptyGuard_points hc hp

/-- Settles O41: the two cases of the guard; EMPTY is raised with the length of the candidate. -/
theorem emptyGuardFiresExactlyWithoutPoints : Obligations.EmptyGuardFiresExactlyWithoutPoints := by
  intro s B ps hc hp
  refine ⟨?_, exec_emptyGuard_of_ne_nil hc hp⟩
  rintro rfl
  exact runEmptyGuard_empty hc hp

/-- R173, R155: the label, the scan and the delivered record of PUBLISH are those of `publication`. -/
theorem exec_publish {F : DecodedFrame} {S : NormalizedScan} (hF : s.dp.decoded = .ok F)
    (hS : s.dp.normalized = .ok S) : exec .publish s = .next { s with out := publication F S } :=
  runPublish_ok hF hS

/-- Settles O42: the registers are those of the two records PUBLISH reads. -/
theorem publishDeliversTheWholeRecord : Obligations.PublishDeliversTheWholeRecord := by
  intro s F S hheader hverlen hspeed hstart hend htime hcrc hpoints hmin hmax hinc hranges hints hrmin hrmax
  exact exec_publish
    (Datapath.decoded_eq_ok.2 ⟨hheader, hverlen, hspeed, hstart, hend, htime, hcrc, hpoints⟩)
    (Datapath.normalized_eq_ok.2 ⟨hmin, hmax, hinc, hranges, hints, hrmin, hrmax⟩)

/-! ### An accepted candidate with points (R172) -/

/-- R174: a candidate of more than 14 bytes has points. -/
theorem decodedView_points_ne_nil {B : List Byte} (hl : 15 ≤ B.length) : (decodedView B).points ≠ [] := by
  have hcount : 0 < pointCount B.length := (lt_pointCount_iff (by omega) 0).2 (by omega)
  simpa [decodedView, List.range_eq_nil] using hcount.ne'

theorem Datapath.decoded_writeFrame {d : Datapath} {F : DecodedFrame} : (d.writeFrame F).decoded = .ok F :=
  Datapath.decoded_eq_ok.2 ⟨rfl, rfl, rfl, rfl, rfl, rfl, rfl, rfl⟩

/-- R145: ASSEMBLE of a decoded frame with points writes its closed-form scan and leaves the frame. -/
theorem exec_assemble_gives {F : DecodedFrame} (hF : s.dp.decoded = .ok F) (hne : F.points ≠ []) :
    ∃ d, exec .assemble s = .next { s with dp := d } ∧ d.decoded = .ok F ∧
      d.normalized = .ok (scanView F) := by
  obtain ⟨-, -, -, hs, he, -, -, hp⟩ := Datapath.decoded_eq_ok.1 hF
  exact ⟨_, exec_assemble hs he hp hne, hF, Datapath.normalized_eq_ok.2 ⟨rfl, rfl, rfl, rfl, rfl, rfl, rfl⟩⟩

/-- R172, R173: an accepted candidate of more than 14 bytes passes every row of the resolution. -/
theorem resolve_of_crc_eq_points {M : List Byte} {k : Byte} (hc : s.dp.cand = some (M ++ [k]))
    (hl : 14 ≤ M.length) (hok : crc8 s.rom M = k) :
    ∃ d, resolve s = .next { s with
      dp := d, out := publication (decodedView (M ++ [k])) (scanView (decodedView (M ++ [k]))) } := by
  have hlen : 15 ≤ (M ++ [k]).length := by simpa using hl
  have hne := decodedView_points_ne_nil hlen
  obtain ⟨d1, hvalidate, hc1, hverdict⟩ : ∃ d, exec .validate s = .next { s with dp := d } ∧
      d.cand = some (M ++ [k]) ∧ d.verdict = some true :=
    ⟨_, exec_validate_concat hc (by omega), hc, congrArg some (decide_eq_true hok)⟩
  have hdecode := exec_decode_writeFrame (s := { s with dp := d1 }) hc1 (by omega)
  have hguard := exec_emptyGuard_of_ne_nil
    (s := { s with dp := d1.writeFrame (decodedView (M ++ [k])) }) hc1 rfl hne
  obtain ⟨d3, hassemble, hF, hS⟩ := exec_assemble_gives
    (s := { s with dp := d1.writeFrame (decodedView (M ++ [k])) }) Datapath.decoded_writeFrame hne
  exact ⟨d3, resolve_of_points hvalidate hverdict hdecode hguard (fun h => hne (Option.some.inj h)) hassemble
    (exec_publish hF hS)⟩

/-- Settles O20: the resolution runs to PUBLISH. -/
theorem emitPublishesAnAcceptedFrame : Obligations.EmitPublishesAnAcceptedFrame := by
  intro s M k hrun hst hbuf hl hok
  have hlen : 14 ≤ s.buf.length := by
    rw [hbuf, List.length_append]
    omega
  obtain ⟨d, hres⟩ := resolve_of_crc_eq_points (s := s.beginStep.emitCandidate) (congrArg some hbuf) hl hok
  rw [hbuf]
  exact exec_syncEmit_of_resolve hrun hst hlen hres

/-! ### The resolution in closed form (R172) -/

/-- R113: a candidate split into the bytes the CRC covers and the carried checksum. -/
theorem accepted_concat_iff {rom : Memory} {M : List Byte} {k : Byte} :
    Accepted rom (M ++ [k]) ↔ 13 ≤ M.length ∧ crc8 rom M = k := by
  rw [Accepted, List.getLast?_concat, List.dropLast_concat, List.length_append, List.length_singleton,
    Option.some_inj, eq_comm (a := k)]
  exact and_congr_left' Nat.succ_le_succ_iff

/-- R94, R172: SYNC.emit restarts the buffer and reports the resolution of what was buffered. -/
theorem exec_syncEmit_eq_resolution (hrun : s.halted = false) (hst : s.st = .accumulating)
    (hl : 14 ≤ s.buf.length) :
    exec .syncEmit s = .next { s with buf := [0x54], dp := {}, out := resolution s.rom s.buf } := by
  obtain ⟨M, k, hbuf⟩ := (List.eq_nil_or_concat' s.buf).resolve_left (by rintro h; simp [h] at hl)
  have hM : 13 ≤ M.length := by simpa [hbuf] using hl
  by_cases hok : crc8 s.rom M = k
  · have hacc : Accepted s.rom s.buf := hbuf ▸ accepted_concat_iff.2 ⟨hM, hok⟩
    rw [resolution, if_pos hacc]
    by_cases hlen : s.buf.length = 14
    · rw [if_pos hlen]
      exact emitSkipsAnEmptyFrame s M k hrun hst hbuf (by simpa [hbuf] using hlen) hok
    · rw [if_neg hlen]
      exact emitPublishesAnAcceptedFrame s M k hrun hst hbuf (by simp [hbuf] at hlen; omega) hok
  · have hrej : ¬ Accepted s.rom s.buf := fun h => hok (accepted_concat_iff.1 (hbuf ▸ h)).2
    rw [resolution, if_neg hrej, hbuf]
    simpa using emitRejectsABadCrc s M k hrun hst hbuf hM hok

end Sys2Proof.Machine
end

section
/-! PROOFS. What every step keeps (R25, R30, R32, R47, R51, R100): the fetch, the three ways a step changes the
buffer, and O2, O3, O48, O49 and O52. -/

namespace Sys2Proof.Machine

open Sys2Proof.Safety

variable {s s1 t : State} {x : Stimulus}

/-! ### The instruction a step runs (R170, R171) -/

/-- Settles O3: decoding an event code is the selection a step makes; the TIMEOUT word selects by `halted` alone. -/
theorem stepRunsTheDecodedInstruction : Obligations.StepRunsTheDecodedInstruction := by
  refine ⟨fun s x xs i hin hdec => ?listed, fun s hin => ?nothing⟩
  case listed => exact step_of_selectInput hin (Except.ok.inj hdec)
  case nothing =>
    rw [step_nil hin]
    cases hh : s.halted with
    | true => rw [selectInput_of_halted hh, if_pos rfl]
    | false =>
      have hidle : selectInput s.ctx false 0x000 = .idle := selectInput_of_timeout hh classify_timeout
      rw [hidle, if_neg Bool.false_ne_true]

/-! ### The fetch (R51) -/

/-- R51: the fetch takes the first entry of the input. -/
@[simp] theorem State.fetch_input (s : State) : s.fetch.2.input = s.input.tail := by
  rcases s.fetch_cases with ⟨hin, h⟩ | ⟨x, xs, hin, h⟩
  · rw [h, hin, List.tail_nil]
  · rw [h, hin, List.tail_cons]

/-- The fetch changes no field but the input, so it keeps the invariants, which do not speak of the input. -/
theorem State.fetch_inv (h : Inv s) : Inv s.fetch.2 := by
  rcases s.fetch_cases with ⟨-, hf⟩ | ⟨x, xs, -, hf⟩ <;> rw [hf]
  · exact h
  · exact ⟨h.seeking, h.header, h.inner, h.halted⟩

/-- A stimulus other than the one presented when nothing is listed was listed. -/
theorem State.input_of_fetch_ne (hf : s.fetch = (x, s1)) (hx : x ≠ Stimulus.nothing) :
    s.input = x :: s1.input := by
  rcases s.fetch_cases with ⟨-, h⟩ | ⟨y, ys, hin, h⟩
  · cases hf.symm.trans h
    exact absurd rfl hx
  · cases hf.symm.trans h
    exact hin

/-! ### The invariants of R32 in the states a step can leave -/

/-- R33, R97, R175, R176: nothing buffered, and SEEKING. -/
theorem inv_of_cleared (hst : s.st = .seeking) (hbuf : s.buf = []) : Inv s where
  seeking := by simp [SeekingIffEmpty, hst, hbuf]
  header := by simp [StartsWithSync, hbuf]
  inner := by simp [NoInnerSync, hbuf]
  halted := fun _ => ⟨hst, hbuf⟩

/-- R91, R94, R95: the buffer holds the sync byte alone. -/
theorem inv_of_restarted (hrun : s.halted = false) (hst : s.st = .accumulating)
    (hbuf : s.buf = [Config.syncByte]) : Inv s where
  seeking := by simp [SeekingIffEmpty, hst, hbuf]
  header := by simp [StartsWithSync, hbuf]
  inner := by simp [NoInnerSync, hbuf]
  halted := by simp [HaltedIsEmpty, hrun]

/-- R93: a byte other than the sync byte goes behind the sync byte that begins the buffer. -/
theorem inv_of_appended {b : Byte} (h : Inv s) (hst : s.st = .accumulating)
    (hb : b ≠ Config.syncByte) (hst' : t.st = .accumulating) (hbuf' : t.buf = s.buf ++ [b])
    (hrun' : t.halted = false) : Inv t := by
  have hne : s.buf ≠ [] := fun hnil => by simpa [hst] using h.seeking.2 hnil
  obtain ⟨c, cs, hbuf⟩ := List.exists_cons_of_ne_nil hne
  have hheader := h.header
  have hinner := h.inner
  rw [StartsWithSync, hbuf] at hheader
  rw [NoInnerSync, hbuf] at hinner
  have happended : t.buf = c :: (cs ++ [b]) := by rw [hbuf', hbuf, List.cons_append]
  refine ⟨?seeking, ?header, ?inner, ?halted⟩
  case seeking => simp [SeekingIffEmpty, hst', happended]
  case header =>
    rw [StartsWithSync, happended]
    exact hheader
  case inner =>
    rw [NoInnerSync, happended]
    intro d hd
    rcases List.mem_append.1 hd with hd | hd
    · exact hinner d hd
    · rwa [List.mem_singleton.1 hd]
  case halted => simp [HaltedIsEmpty, hrun']

/-! ### The obligations -/

/-- Settles O2: the reset state is cleared, and the other two clauses are facts about it. -/
theorem resetStateMeetsTheInvariants : Obligations.ResetStateMeetsTheInvariants :=
  ⟨inv_of_cleared State.reset_st State.reset_buf, State.reset_dp, State.reset_rom_wf⟩

/-- Settles O48: a step keeps `st`, `buf` and `halted`, clears, restarts or appends. -/
theorem stepKeepsTheInvariants : Obligations.StepKeepsTheInvariants := by
  intro s t hinv hstep
  obtain ⟨x, s1, t', hf, hstep', hcases⟩ := step_cases s
  cases hstep.symm.trans hstep'
  have h1 : Inv s1 := by
    have h := State.fetch_inv hinv
    rwa [hf] at h
  rcases hcases with ⟨-, rfl⟩ | ⟨-, -, rfl⟩ | ⟨-, hrun, hrow⟩
  · exact inv_of_cleared rfl rfl
  · exact ⟨h1.seeking, h1.header, h1.inner, h1.halted⟩
  · rcases hrow with ⟨-, rfl⟩ | ⟨-, rfl⟩ | ⟨-, rfl⟩ | ⟨b, -, -, -, rfl⟩ | ⟨b, -, hb, hst, rfl⟩ | ⟨-, o, rfl, -⟩
    · exact inv_of_cleared rfl rfl
    · exact inv_of_cleared rfl rfl
    · exact ⟨h1.seeking, h1.header, h1.inner, h1.halted⟩
    · exact ⟨h1.seeking, h1.header, h1.inner, h1.halted⟩
    · exact inv_of_appended h1 hst hb hst rfl hrun
    · exact inv_of_restarted hrun rfl rfl

/-- R25, R51: a step leaves no transient, and of the input all but the entry it took. -/
theorem step_clears_transients_and_takes_input (hstep : step s = .next t) :
    Quiet t ∧ t.input = s.input.tail := by
  obtain ⟨x, s1, t', hf, hstep', hcases⟩ := step_cases s
  cases hstep.symm.trans hstep'
  have hinput : s1.input = s.input.tail := by rw [← State.fetch_input s, hf]
  rw [← hinput]
  rcases hcases with ⟨-, rfl⟩ | ⟨-, -, rfl⟩ | ⟨-, -, hrow⟩
  · exact ⟨rfl, rfl⟩
  · exact ⟨rfl, rfl⟩
  · rcases hrow with ⟨-, rfl⟩ | ⟨-, rfl⟩ | ⟨-, rfl⟩ | ⟨_, -, -, -, rfl⟩ | ⟨_, -, -, -, rfl⟩ |
      ⟨-, _, rfl, -⟩ <;> exact ⟨rfl, rfl⟩

/-- Settles O49: the ROM is the same one, so it is still in canonical form. -/
theorem stepKeepsRomAndClearsTransients : Obligations.StepKeepsRomAndClearsTransients := by
  intro s t hstep
  have hrom := step_keeps_rom hstep
  exact ⟨hrom, fun hwf => hrom ▸ hwf, step_clears_transients_and_takes_input hstep⟩

/-- Settles O52: of the steps of a running ACCUMULATING state only those of reset, STOP and EOS leave it. -/
theorem seekingIsLeftOnce : Obligations.SeekingIsLeftOnce := by
  intro s t hrun hst hstep
  obtain ⟨x, s1, t', hf, hstep', hcases⟩ := step_cases s
  cases hstep.symm.trans hstep'
  have hctx : s1.ctx = s.ctx := by rw [← State.fetch_ctx s, hf]
  have hrun1 : s1.halted = false := (congrArg Ctx.halted hctx).trans hrun
  have hst1 : s1.st = .accumulating := (congrArg Ctx.st hctx).trans hst
  rcases hcases with ⟨hrst, -⟩ | ⟨-, hwas, -⟩ | ⟨-, -, hrow⟩
  · have hlisted := State.input_of_fetch_ne hf (by rintro rfl; cases hrst)
    exact .inr ⟨x, _, hlisted, .inl hrst⟩
  · exact absurd (hrun1.symm.trans hwas) Bool.false_ne_true
  · rcases hrow with ⟨hc, -⟩ | ⟨hc, -⟩ | ⟨-, rfl⟩ | ⟨_, -, -, hseek, -⟩ | ⟨_, -, -, -, rfl⟩ | ⟨-, _, rfl, -⟩
    · exact .inr ⟨x, _, State.input_of_fetch hf (by simp [hc]), .inr (.inl (bit10_of_classify hc))⟩
    · exact .inr ⟨x, _, State.input_of_fetch hf (by simp [hc]), .inr (.inr (bit9_of_classify hc))⟩
    · exact .inl ⟨hrun1, hst1⟩
    · cases hst1.symm.trans hseek
    · exact .inl ⟨hrun1, hst1⟩
    · exact .inl ⟨hrun1, rfl⟩

end Sys2Proof.Machine
end

section
/-! PROOFS. The step as a function (R170 to R177, R179): its output and next state computed from the stimulus and the
persistent state, when it publishes and what, and O50, O51 and O54. -/

namespace Sys2Proof

/-- R60, R61: the word of a byte event has no bit besides its class and its byte. -/
theorem eq_byteWord_of_classify {ev : EventWord} {b : Byte} (hc : classify ev = .byte b) : ev = byteWord b := by
  rw [classify_eq_getLsbD] at hc
  split_ifs at hc with h10 h9 h8
  cases hc
  refine BitVec.eq_of_getLsbD_eq fun i hi => ?_
  simp only [byteWord, BitVec.getLsbD_or, BitVec.getLsbD_setWidth, BitVec.getLsbD_extractLsb', Nat.zero_add]
  obtain hlow | rfl | rfl | rfl : i < 8 ∨ i = 8 ∨ i = 9 ∨ i = 10 := by omega
  · have hclass : (0x100 : EventWord).getLsbD i = false := by
      interval_cases i <;> rfl
    simp only [hclass, hlow, hi, decide_true, Bool.true_and, Bool.false_or]
  · simpa using h8
  · simpa using h9
  · simpa using h10

namespace Machine

open Sys2Proof.Safety

/-! ### The step as a function -/

/-- R91, R94, R95: the output of the step that takes a sync byte. -/
def State.syncOutput (s : State) : Output :=
  match s.st with
  | .seeking => { label := some .start }
  | .accumulating => closing s.rom s.buf

/-- R91 to R95: a running state after the step that takes byte `b`. -/
def State.afterByte (s : State) (b : Byte) : State :=
  if b = Config.syncByte then
    { s with st := .accumulating, buf := [Config.syncByte], dp := .empty, out := s.syncOutput }
  else
    match s.st with
    | .seeking => { s with dp := .empty, out := { label := some (.skip b) } }
    | .accumulating => { s with buf := s.buf ++ [b], dp := .empty, out := { label := some (.append b) } }

/-- R171, R216: a state, from whose input stimulus `x` was taken, after the step that takes it. -/
def State.after (s : State) (x : Stimulus) : State :=
  if x.rst then { State.reset with rom := s.rom, input := s.input }
  else if s.halted then { s with dp := .empty, out := { label := some .halted } }
  else
    match classify x.ev with
    | .stop => { s with
        st := .seeking, buf := [], halted := true, dp := .empty
        out := { label := some (.stop s.buf.length) } }
    | .eos => { s with
        st := .seeking, buf := [], halted := true, dp := .empty
        out := { label := some (.eos s.buf.length), eosOut := true } }
    | .timeout => { s with dp := .empty, out := { label := some .idle } }
    | .byte b => s.afterByte b

section

variable {s t : State} {x : Stimulus} {b : Byte}

theorem State.syncOutput_of_seeking (hst : s.st = .seeking) : s.syncOutput = { label := some .start } := by
  rw [State.syncOutput, hst]

theorem State.syncOutput_of_accumulating (hst : s.st = .accumulating) :
    s.syncOutput = closing s.rom s.buf := by
  rw [State.syncOutput, hst]

theorem State.afterByte_sync :
    s.afterByte Config.syncByte =
      { s with st := .accumulating, buf := [Config.syncByte], dp := .empty, out := s.syncOutput } :=
  if_pos rfl

theorem State.afterByte_of_seeking (hb : b ≠ Config.syncByte) (hst : s.st = .seeking) :
    s.afterByte b = { s with dp := .empty, out := { label := some (.skip b) } } := by
  rw [State.afterByte, if_neg hb, hst]

theorem State.afterByte_of_accumulating (hb : b ≠ Config.syncByte) (hst : s.st = .accumulating) :
    s.afterByte b = { s with buf := s.buf ++ [b], dp := .empty, out := { label := some (.append b) } } := by
  rw [State.afterByte, if_neg hb, hst]

theorem State.after_of_rst (hrst : x.rst = true) :
    s.after x = { State.reset with rom := s.rom, input := s.input } :=
  if_pos hrst

section

variable (hrst : x.rst = false)

include hrst

theorem State.after_of_halted (hh : s.halted = true) :
    s.after x = { s with dp := .empty, out := { label := some .halted } } := by
  simp [State.after, hrst, hh]

variable (hrun : s.halted = false)

include hrun

theorem State.after_of_stop (hc : classify x.ev = .stop) :
    s.after x = { s with
      st := .seeking, buf := [], halted := true, dp := .empty
      out := { label := some (.stop s.buf.length) } } := by
  simp [State.after, hrst, hrun, hc]

theorem State.after_of_eos (hc : classify x.ev = .eos) :
    s.after x = { s with
      st := .seeking, buf := [], halted := true, dp := .empty
      out := { label := some (.eos s.buf.length), eosOut := true } } := by
  simp [State.after, hrst, hrun, hc]

theorem State.after_of_timeout (hc : classify x.ev = .timeout) :
    s.after x = { s with dp := .empty, out := { label := some .idle } } := by
  simp [State.after, hrst, hrun, hc]

theorem State.after_of_byte (hc : classify x.ev = .byte b) : s.after x = s.afterByte b := by
  simp [State.after, hrst, hrun, hc]

end

/-! ### The function is the step -/

/-- R91 to R95, R172: the row a byte selects does what `afterByte` says. -/
theorem exec_selectByte (hrun : s.halted = false) : exec (selectByte s.ctx b) s = .next (s.afterByte b) := by
  by_cases hb : b = Config.syncByte
  · subst hb
    rw [State.afterByte_sync]
    cases hst : s.st with
    | seeking =>
      rw [selectByte_sync_seeking hst, State.syncOutput_of_seeking hst]
      exact syncStartBuffersTheSyncByte s hrun hst
    | accumulating =>
      rw [State.syncOutput_of_accumulating hst, ← hst]
      by_cases hl : s.buf.length < 14
      · rw [selectByte_sync_short hst hl, closing, if_pos hl, hst]
        exact syncDiscardRestartsTheBuffer s hrun hst hl
      · rw [selectByte_sync_long hst (Nat.not_lt.1 hl), closing, if_neg hl]
        exact exec_syncEmit_eq_resolution hrun hst (Nat.not_lt.1 hl)
  · cases hst : s.st with
    | seeking =>
      rw [selectByte_data_seeking hb hst, State.afterByte_of_seeking hb hst]
      exact dataSkipChangesNothing s b hrun hst hb
    | accumulating =>
      rw [selectByte_data_accumulating hb hst, State.afterByte_of_accumulating hb hst]
      exact (dataAppendAppendsTheByte s b hrun hst hb).1

/-- R171, R216: the row an input selects does what `after` says. -/
theorem exec_selectInput (s : State) (x : Stimulus) :
    exec (selectInput s.ctx x.rst x.ev) s = .next (s.after x) := by
  cases hrst : x.rst with
  | true =>
    rw [selectInput_rst, State.after_of_rst hrst]
    exact exec_reset s
  | false =>
    cases hh : s.halted with
    | true =>
      rw [selectInput_of_halted hh, State.after_of_halted hrst hh]
      exact haltedRowIgnoresTheEvent s hh
    | false =>
      cases hc : classify x.ev with
      | stop =>
        rw [selectInput_of_stop hh hc, State.after_of_stop hrst hh hc]
        exact stopDiscardsAndHalts s hh
      | eos =>
        rw [selectInput_of_eos hh hc, State.after_of_eos hrst hh hc]
        exact endOfStreamDiscardsAndHalts s hh
      | timeout =>
        rw [selectInput_of_timeout hh hc, State.after_of_timeout hrst hh hc]
        exact timeoutStepChangesNothing s hh
      | byte b =>
        rw [selectInput_of_byte hh hc, State.after_of_byte hrst hh hc]
        exact exec_selectByte hh

/-- R170: a step takes the next stimulus and answers `after`. -/
theorem step_eq_after (s : State) : step s = .next (s.fetch.2.after s.fetch.1) := by
  rw [step, exec_selectInput]

theorem step_cons_eq_after {xs : List Stimulus} (hin : s.input = x :: xs) :
    step s = .next ({ s with input := xs }.after x) := by
  rw [step_eq_after, State.fetch_cons s hin]

/-! ### Locality (R179) -/

theorem State.syncOutput_congr (hst : s.st = t.st) (hbuf : s.buf = t.buf) (hrom : s.rom = t.rom) :
    s.syncOutput = t.syncOutput := by
  rw [State.syncOutput, State.syncOutput, hst, hbuf, hrom]

theorem State.afterByte_congr (h : SamePersistent s t) (b : Byte) :
    SamePersistent (s.afterByte b) (t.afterByte b) ∧ (s.afterByte b).out = (t.afterByte b).out := by
  obtain ⟨hst, hbuf, hhalt, hrom⟩ := h
  by_cases hb : b = Config.syncByte
  · subst hb
    rw [State.afterByte_sync, State.afterByte_sync]
    exact ⟨⟨rfl, rfl, hhalt, hrom⟩, State.syncOutput_congr hst hbuf hrom⟩
  · cases hs : s.st with
    | seeking =>
      rw [State.afterByte_of_seeking hb hs, State.afterByte_of_seeking hb (hst.symm.trans hs)]
      exact ⟨⟨hst, hbuf, hhalt, hrom⟩, rfl⟩
    | accumulating =>
      rw [State.afterByte_of_accumulating hb hs, State.afterByte_of_accumulating hb (hst.symm.trans hs)]
      exact ⟨⟨hst, congrArg (· ++ [b]) hbuf, hhalt, hrom⟩, rfl⟩

/-- R179: the output of a step and the persistent state after it are functions of the stimulus and the persistent
state. -/
theorem State.after_congr (h : SamePersistent s t) (x : Stimulus) :
    SamePersistent (s.after x) (t.after x) ∧ (s.after x).out = (t.after x).out := by
  obtain ⟨hst, hbuf, hhalt, hrom⟩ := id h
  cases hrst : x.rst with
  | true =>
    rw [State.after_of_rst hrst, State.after_of_rst hrst]
    exact ⟨⟨rfl, rfl, rfl, hrom⟩, rfl⟩
  | false =>
    cases hs : s.halted with
    | true =>
      rw [State.after_of_halted hrst hs, State.after_of_halted hrst (hhalt.symm.trans hs)]
      exact ⟨⟨hst, hbuf, hhalt, hrom⟩, rfl⟩
    | false =>
      have ht : t.halted = false := hhalt.symm.trans hs
      cases hc : classify x.ev with
      | stop =>
        rw [State.after_of_stop hrst hs hc, State.after_of_stop hrst ht hc, hbuf]
        exact ⟨⟨rfl, rfl, rfl, hrom⟩, rfl⟩
      | eos =>
        rw [State.after_of_eos hrst hs hc, State.after_of_eos hrst ht hc, hbuf]
        exact ⟨⟨rfl, rfl, rfl, hrom⟩, rfl⟩
      | timeout =>
        rw [State.after_of_timeout hrst hs hc, State.after_of_timeout hrst ht hc]
        exact ⟨⟨hst, hbuf, hhalt, hrom⟩, rfl⟩
      | byte b =>
        rw [State.after_of_byte hrst hs hc, State.after_of_byte hrst ht hc]
        exact State.afterByte_congr h b

/-- R51: the stimulus fetched is the first of the input. -/
theorem State.fetch_fst (s : State) : s.fetch.1 = s.input.head?.getD Stimulus.nothing := by
  rcases s.fetch_cases with ⟨hin, h⟩ | ⟨x, xs, hin, h⟩ <;> rw [h, hin] <;> rfl

theorem State.fetch_samePersistent (s : State) : SamePersistent s.fetch.2 s := by
  rcases s.fetch_cases with ⟨-, h⟩ | ⟨x, xs, -, h⟩ <;> rw [h] <;> exact ⟨rfl, rfl, rfl, rfl⟩

theorem samePersistent_trans {u : State} (h : SamePersistent s t) (h' : SamePersistent t u) :
    SamePersistent s u := by
  obtain ⟨hst, hbuf, hhalt, hrom⟩ := h
  obtain ⟨hst', hbuf', hhalt', hrom'⟩ := h'
  exact ⟨hst.trans hst', hbuf.trans hbuf', hhalt.trans hhalt', hrom.trans hrom'⟩

theorem samePersistent_symm (h : SamePersistent s t) : SamePersistent t s := by
  obtain ⟨hst, hbuf, hhalt, hrom⟩ := h
  exact ⟨hst.symm, hbuf.symm, hhalt.symm, hrom.symm⟩

/-- Settles O54: both steps fetch the same stimulus, in states that agree on the persistent state. -/
theorem outputDependsOnEventAndPersistentStateOnly : Obligations.OutputDependsOnEventAndPersistentStateOnly := by
  intro s t h hhead
  have hfetched : s.fetch.1 = t.fetch.1 := by rw [State.fetch_fst, State.fetch_fst, hhead]
  have hleft : SamePersistent s.fetch.2 t.fetch.2 :=
    samePersistent_trans s.fetch_samePersistent (samePersistent_trans h (samePersistent_symm t.fetch_samePersistent))
  obtain ⟨hsame, hout⟩ := State.after_congr hleft s.fetch.1
  exact ⟨_, _, step_eq_after s, step_eq_after t, hfetched ▸ hsame, hfetched ▸ hout⟩

/-! ### Publishing (R173) -/

/-- R172, R174: an accepted candidate of more than 14 bytes is published when it is closed. -/
theorem closing_of_accepted {rom : Memory} {C : List Byte} (hl : 15 ≤ C.length) (hacc : Accepted rom C) :
    closing rom C = publication (decodedView C) (scanView (decodedView C)) := by
  rw [closing, if_neg (by omega), resolution, if_pos hacc, if_neg (by omega)]

/-- R174, R192 to R194: any other candidate publishes nothing. -/
theorem closing_scan_eq_none {rom : Memory} {C : List Byte} (h : ¬ (15 ≤ C.length ∧ Accepted rom C)) :
    (closing rom C).scan = none := by
  rw [closing, resolution]
  split_ifs with hshort hacc hlen
  · rfl
  · rfl
  · exact absurd ⟨by omega, hacc⟩ h
  · rfl

/-- R173: closing a candidate publishes a scan only if it is that of an accepted frame with points. -/
theorem closing_of_scan_eq_some {rom : Memory} {C : List Byte} {S : NormalizedScan}
    (hscan : (closing rom C).scan = some S) :
    (15 ≤ C.length ∧ Accepted rom C) ∧ closing rom C = publication (decodedView C) S ∧
      S = scanView (decodedView C) := by
  by_cases h : 15 ≤ C.length ∧ Accepted rom C
  · rw [closing_of_accepted h.1 h.2] at hscan ⊢
    cases hscan
    exact ⟨h, rfl, rfl⟩
  · rw [closing_scan_eq_none h] at hscan
    cases hscan

/-- R173: a byte publishes only as the sync byte that closes what was accumulated. -/
theorem State.afterByte_of_scan_eq_some {S : NormalizedScan} (hscan : (s.afterByte b).out.scan = some S) :
    b = Config.syncByte ∧ s.st = .accumulating ∧ (s.afterByte b).out = closing s.rom s.buf := by
  by_cases hb : b = Config.syncByte
  · subst hb
    rw [State.afterByte_sync] at hscan ⊢
    cases hst : s.st with
    | seeking =>
      rw [State.syncOutput_of_seeking hst] at hscan
      cases hscan
    | accumulating => exact ⟨rfl, rfl, State.syncOutput_of_accumulating hst⟩
  · cases hst : s.st with
    | seeking =>
      rw [State.afterByte_of_seeking hb hst] at hscan
      cases hscan
    | accumulating =>
      rw [State.afterByte_of_accumulating hb hst] at hscan
      cases hscan

/-- R171, R173: of all events only a byte of a running block publishes. -/
theorem State.after_of_scan_eq_some {S : NormalizedScan} (hscan : (s.after x).out.scan = some S) :
    x.rst = false ∧ s.halted = false ∧ ∃ b, classify x.ev = .byte b ∧ s.after x = s.afterByte b := by
  cases hrst : x.rst with
  | true =>
    rw [State.after_of_rst hrst] at hscan
    cases hscan
  | false =>
    cases hs : s.halted with
    | true =>
      rw [State.after_of_halted hrst hs] at hscan
      cases hscan
    | false =>
      cases hc : classify x.ev with
      | stop =>
        rw [State.after_of_stop hrst hs hc] at hscan
        cases hscan
      | eos =>
        rw [State.after_of_eos hrst hs hc] at hscan
        cases hscan
      | timeout =>
        rw [State.after_of_timeout hrst hs hc] at hscan
        cases hscan
      | byte b => exact ⟨rfl, rfl, b, rfl, State.after_of_byte hrst hs hc⟩

/-- R173: what a step that publishes was given, and what it publishes. -/
theorem step_of_scan_eq_some {S : NormalizedScan} (hstep : step s = .next t) (hscan : t.out.scan = some S) :
    s.halted = false ∧ s.st = .accumulating ∧ (∃ xs, s.input = { rst := false, ev := 0x154 } :: xs) ∧
      (15 ≤ s.buf.length ∧ Accepted s.rom s.buf) ∧ S = scanView (decodedView s.buf) ∧
      t.out = publication (decodedView s.buf) S := by
  obtain ⟨x, s1, hf⟩ : ∃ x s1, s.fetch = (x, s1) := ⟨_, _, rfl⟩
  obtain ⟨hst, hbuf, hhalt, hrom⟩ : SamePersistent s1 s := by
    have h := s.fetch_samePersistent
    rwa [hf] at h
  have hafter := step_eq_after s
  rw [hf] at hafter
  cases hstep.symm.trans hafter
  obtain ⟨hrst, hrun, b, hc, hbyte⟩ := State.after_of_scan_eq_some hscan
  rw [hbyte] at hscan ⊢
  obtain ⟨rfl, hacc, hout⟩ := State.afterByte_of_scan_eq_some hscan
  rw [hout] at hscan ⊢
  rw [hrom, hbuf] at hscan ⊢
  obtain ⟨haccepted, hpublished, hS⟩ := closing_of_scan_eq_some hscan
  refine ⟨hhalt.symm.trans hrun, hst.symm.trans hacc, ⟨s1.input, ?listed⟩, haccepted, hS, hpublished⟩
  obtain ⟨rst, ev⟩ := x
  cases hrst
  cases eq_byteWord_of_classify hc
  exact State.input_of_fetch hf (by simp)

/-- Settles O50: an accepted buffer is split before its last byte. -/
theorem publishNeedsAnAcceptedFrameAtASyncByte : Obligations.PublishNeedsAnAcceptedFrameAtASyncByte := by
  intro s t S hstep hscan
  obtain ⟨hrun, hst, hlisted, ⟨hl, hacc⟩, hS, hout⟩ := step_of_scan_eq_some hstep hscan
  obtain ⟨M, k, hbuf⟩ := (List.eq_nil_or_concat' s.buf).resolve_left (by rintro h; simp [h] at hl)
  have hM : 14 ≤ M.length := by simpa [hbuf] using hl
  rw [hbuf] at hacc
  exact ⟨hrun, hst, hlisted, ⟨M, k, hbuf, hM, (accepted_concat_iff.1 hacc).2⟩, hS, by rw [hout]; rfl⟩

/-! ### The shape of a scan (R150 to R153) -/

/-- R150 to R153: the scan of a frame with points has a range and an intensity for each, and its bounds are the
least and the greatest range. -/
theorem scanView_bounds {F : DecodedFrame} (hne : F.points ≠ []) :
    (scanView F).ranges ≠ [] ∧ (scanView F).intensities.length = (scanView F).ranges.length ∧
      (scanView F).rangeMin ∈ (scanView F).ranges ∧ (scanView F).rangeMax ∈ (scanView F).ranges ∧
      ∀ r ∈ (scanView F).ranges, (scanView F).rangeMin ≤ r ∧ r ≤ (scanView F).rangeMax := by
  obtain ⟨p, ps, hps⟩ := List.exists_cons_of_ne_nil hne
  have hints : (scanView F).intensities.length = F.points.length := by simp [scanView]
  rw [hints, scanView_ranges, scanView_rangeMin hps, scanView_rangeMax hps, hps, List.map_cons]
  obtain ⟨hmin, hle⟩ := List.min?_eq_some_iff.1 (min?_cons_eq_minOf ((p.distance.toNat : Rat) / 1000)
    (ps.map fun q => (q.distance.toNat : Rat) / 1000))
  obtain ⟨hmax, hge⟩ := List.max?_eq_some_iff.1 (max?_cons_eq_maxOf ((p.distance.toNat : Rat) / 1000)
    (ps.map fun q => (q.distance.toNat : Rat) / 1000))
  exact ⟨List.cons_ne_nil _ _, by simp, hmin, hmax, fun r hr => ⟨hle r hr, hge r hr⟩⟩

/-- Settles O51: a published scan is that of a frame with points. -/
theorem publishedScansAreAlignedAndBounded : Obligations.PublishedScansAreAlignedAndBounded := by
  intro s t S hstep hscan
  obtain ⟨-, -, -, ⟨hl, -⟩, rfl, -⟩ := step_of_scan_eq_some hstep hscan
  exact scanView_bounds (decodedView_points_ne_nil hl)

end

end Machine
end Sys2Proof
end

section
/-! PROOFS. Runs (R74, R178 to R180, R199): the composition of runs, a TIMEOUT inserted into one, a run over a byte
string by its cut at the sync bytes, and O55 to O57. -/

namespace Sys2Proof.Machine

open Sys2Proof.Safety

variable {s t v w : State}

/-! ### Composition (R178) -/

theorem outputs_length (n : Nat) (s : State) : (outputs n s).length = n := by
  induction n generalizing s with
  | zero => rfl
  | succ n ih =>
    obtain ⟨t, hstep⟩ := step_answers_next s
    rw [outputs_succ hstep, List.length_cons, ih t]

/-- R178: a run of `m + n` steps is a run of `m` and then one of `n`. -/
theorem run_add {m : Nat} (n : Nat) (hv : stateAfter m s = some v) :
    outputs (m + n) s = outputs m s ++ outputs n v ∧ stateAfter (m + n) s = stateAfter n v := by
  induction m generalizing s with
  | zero =>
    cases hv
    rw [Nat.zero_add]
    exact ⟨rfl, rfl⟩
  | succ m ih =>
    obtain ⟨t, hstep⟩ := step_answers_next s
    rw [stateAfter_succ hstep] at hv
    obtain ⟨hout, hafter⟩ := ih hv
    rw [Nat.add_right_comm, outputs_succ hstep, outputs_succ hstep, stateAfter_succ hstep,
      hout, hafter, List.cons_append]
    exact ⟨rfl, rfl⟩

/-! ### Locality of a run (R179) -/

/-- R179: two runs over the same stimuli from states that agree on the persistent state have the same outputs and
end in states that agree on it, whatever is listed after these stimuli. -/
theorem run_congr (xs : List Stimulus) {ys zs : List Stimulus} (h : SamePersistent s t)
    (hs : s.input = xs ++ ys) (ht : t.input = xs ++ zs) :
    outputs xs.length s = outputs xs.length t ∧
      ∃ s' t', stateAfter xs.length s = some s' ∧ stateAfter xs.length t = some t' ∧ SamePersistent s' t' ∧
        s'.input = ys ∧ t'.input = zs := by
  induction xs generalizing s t with
  | nil => exact ⟨rfl, s, t, rfl, rfl, h, hs, ht⟩
  | cons x xs ih =>
    have hhead : s.input.head? = t.input.head? := by rw [hs, ht]; rfl
    obtain ⟨s1, t1, hstep_s, hstep_t, h1, hout⟩ := outputDependsOnEventAndPersistentStateOnly s t h hhead
    have hs1 : s1.input = xs ++ ys := by
      rw [(step_clears_transients_and_takes_input hstep_s).2, hs]; rfl
    have ht1 : t1.input = xs ++ zs := by
      rw [(step_clears_transients_and_takes_input hstep_t).2, ht]; rfl
    obtain ⟨houts, s', t', hs', ht', h', hin⟩ := ih h1 hs1 ht1
    rw [List.length_cons, outputs_succ hstep_s, outputs_succ hstep_t, stateAfter_succ hstep_s,
      stateAfter_succ hstep_t, hout, houts]
    exact ⟨rfl, s', t', hs', ht', h', hin⟩

/-! ### A TIMEOUT (R96, R177) -/

theorem classify_eq_timeout_of_mask {ev : EventWord} (h : ev &&& 0x700 = 0) : classify ev = .timeout := by
  have hbit : ∀ i, (ev.getLsbD i && (0x700 : EventWord).getLsbD i) = false := by
    intro i
    rw [← BitVec.getLsbD_and, h]
    exact BitVec.getLsbD_zero
  exact classify_of_bits_clear (by simpa using hbit 10) (by simpa using hbit 9) (by simpa using hbit 8)

/-- R96, R177: a TIMEOUT is reported, as O_HALTED by a halted block, and changes no persistent state. -/
theorem step_of_timeout {x : Stimulus} {ys : List Stimulus} (hrst : x.rst = false) (hc : classify x.ev = .timeout)
    (hin : w.input = x :: ys) :
    step w = .next { w with
      input := ys, dp := .empty, out := { label := some (if w.halted = true then .halted else .idle) } } := by
  rw [step_cons_eq_after hin]
  by_cases hw : w.halted = true
  · rw [if_pos hw, State.after_of_halted (s := { w with input := ys }) hrst hw]
  · rw [if_neg hw, State.after_of_timeout (s := { w with input := ys }) hrst (Bool.eq_false_iff.2 hw) hc]

/-- Settles O55: up to the TIMEOUT the two runs agree, the TIMEOUT changes no persistent state, and from there the
two runs agree again. -/
theorem timeoutsCanBeInsertedAnywhere : Obligations.TimeoutsCanBeInsertedAnywhere := by
  intro s xs ys x hrst hmask hin
  obtain ⟨hfirst, v, w, hv, hw, ⟨hst, hbuf, hhalt, hrom⟩, hvin, hwin⟩ :=
    run_congr (s := s) (t := { s with input := xs ++ x :: ys }) xs ⟨rfl, rfl, rfl, rfl⟩ hin rfl
  have hstep := step_of_timeout hrst (classify_eq_timeout_of_mask hmask) hwin
  obtain ⟨hsecond, t, u, ht, hu, htu, -, -⟩ := run_congr
    (s := v) (t := { w with
      input := ys, dp := .empty, out := { label := some (if w.halted = true then .halted else .idle) } })
    ys (ys := []) (zs := []) ⟨hst, hbuf, hhalt, hrom⟩ (by rw [hvin, List.append_nil]) (by simp)
  obtain ⟨hout, hafter⟩ := run_add ys.length hv
  obtain ⟨hout', hafter'⟩ := run_add (1 + ys.length) hw
  rw [Nat.add_comm 1, outputs_succ hstep, ← hsecond, ← hfirst, ← hhalt] at hout'
  rw [Nat.add_comm 1, stateAfter_succ hstep] at hafter'
  rw [Nat.add_assoc, Nat.add_comm 1]
  exact ⟨outputs xs.length s, outputs ys.length v, _, v, t, u, outputs_length _ s, hv, rfl, hout, hout',
    hafter.trans ht, hafter'.trans hu, htu⟩

/-! ### Runs over bytes (R74, R180) -/

/-- R74: `n` steps from `s` have the outputs `os` and end running, with `B` buffered and `rest` listed. -/
def RunGives (n : Nat) (s : State) (os : List Output) (B : List Byte) (rest : List Stimulus) : Prop :=
  outputs n s = os ∧ ∃ t, stateAfter n s = some t ∧ t.halted = false ∧ t.input = rest ∧ t.buf = B

theorem runGives_succ {n : Nat} {os : List Output} {B : List Byte} {rest : List Stimulus}
    (hstep : step s = .next t) (hrun : RunGives n t os B rest) : RunGives (n + 1) s (t.out :: os) B rest := by
  obtain ⟨hout, hafter⟩ := hrun
  rw [RunGives, outputs_succ hstep, stateAfter_succ hstep, hout]
  exact ⟨rfl, hafter⟩

section

variable {b : Byte} {W : List Byte} {rest : List Stimulus} (hrun : s.halted = false)

include hrun

/-- R74: the step that takes the first of the bytes listed. -/
theorem step_of_byte (hin : s.input = byteEvents (b :: W) ++ rest) :
    step s = .next (State.afterByte { s with input := byteEvents W ++ rest } b) := by
  have hin : s.input = { rst := false, ev := byteWord b } :: (byteEvents W ++ rest) := hin
  rw [step_cons_eq_after hin]
  exact congrArg _ (State.after_of_byte rfl hrun (classify_byteWord b))

/-- R91, R94, R95. -/
theorem step_of_sync (hin : s.input = byteEvents (Config.syncByte :: W) ++ rest) :
    step s = .next { s with
      st := .accumulating, buf := [Config.syncByte], dp := .empty, out := s.syncOutput
      input := byteEvents W ++ rest } := by
  rw [step_of_byte hrun hin, State.afterByte_sync]
  rfl

variable (hb : b ≠ Config.syncByte) (hin : s.input = byteEvents (b :: W) ++ rest)

include hb hin

/-- R92. -/
theorem step_of_data_seeking (hst : s.st = .seeking) :
    step s = .next { s with
      dp := .empty, out := { label := some (.skip b) }, input := byteEvents W ++ rest } := by
  rw [step_of_byte hrun hin]
  exact congrArg _ (State.afterByte_of_seeking hb hst)

/-- R93. -/
theorem step_of_data_accumulating (hst : s.st = .accumulating) :
    step s = .next { s with
      buf := s.buf ++ [b], dp := .empty, out := { label := some (.append b) }
      input := byteEvents W ++ rest } := by
  rw [step_of_byte hrun hin]
  exact congrArg _ (State.afterByte_of_accumulating hb hst)

end

/-! ### The cut at the sync bytes (R180) -/

theorem cutAtSync_sync (bs : List Byte) :
    cutAtSync (Config.syncByte :: bs) =
      ([], (Config.syncByte :: (cutAtSync bs).1) :: (cutAtSync bs).2) := by
  rw [cutAtSync, if_pos rfl]

theorem cutAtSync_of_ne {b : Byte} (hb : b ≠ Config.syncByte) (bs : List Byte) :
    cutAtSync (b :: bs) = (b :: (cutAtSync bs).1, (cutAtSync bs).2) := by
  rw [cutAtSync, if_neg hb]

theorem cutAtSync_concat_sync {P : List Byte} (hP : ∀ b ∈ P, b ≠ Config.syncByte) :
    cutAtSync (P ++ [Config.syncByte]) = (P, [[Config.syncByte]]) := by
  induction P with
  | nil => exact cutAtSync_sync []
  | cons b P ih =>
    rw [List.forall_mem_cons] at hP
    rw [List.cons_append, cutAtSync_of_ne hP.1, ih hP.2]

/-- R180: a run over `W` from an ACCUMULATING state: what stands before the first sync byte is appended, and each
sync byte closes what is buffered. -/
theorem run_of_accumulating (W : List Byte) {rest : List Stimulus} (hrun : s.halted = false)
    (hst : s.st = .accumulating) (hin : s.input = byteEvents W ++ rest) :
    RunGives W.length s
      (((cutAtSync W).1.map fun b => { label := some (.append b) }) ++
        segmentOutputs s.rom (closing s.rom (s.buf ++ (cutAtSync W).1)) (cutAtSync W).2)
      ((cutAtSync W).2.getLastD (s.buf ++ (cutAtSync W).1)) rest := by
  induction W generalizing s with
  | nil => exact ⟨rfl, s, rfl, hrun, hin, (List.append_nil s.buf).symm⟩
  | cons b W ih =>
    by_cases hb : b = Config.syncByte
    · subst hb
      have htail := runGives_succ (step_of_sync hrun hin) (ih hrun rfl rfl)
      rw [State.syncOutput_of_accumulating hst] at htail
      simpa [cutAtSync_sync, segmentOutputs, List.getLast?_cons] using htail
    · have htail := runGives_succ (step_of_data_accumulating hrun hb hin hst) (ih hrun hst rfl)
      simpa [cutAtSync_of_ne hb] using htail

/-- R180: a run over `W` from a SEEKING state with nothing buffered: what stands before the first sync byte is
skipped. -/
theorem run_of_seeking (W : List Byte) {rest : List Stimulus} (hrun : s.halted = false)
    (hst : s.st = .seeking) (hbuf : s.buf = []) (hin : s.input = byteEvents W ++ rest) :
    RunGives W.length s (streamOutputs s.rom W) ((cutAtSync W).2.getLastD []) rest := by
  induction W generalizing s with
  | nil => exact ⟨rfl, s, rfl, hrun, hin, hbuf⟩
  | cons b W ih =>
    by_cases hb : b = Config.syncByte
    · subst hb
      have htail := runGives_succ (step_of_sync hrun hin) (run_of_accumulating W hrun rfl rfl)
      rw [State.syncOutput_of_seeking hst] at htail
      simpa [streamOutputs, cutAtSync_sync, segmentOutputs, List.getLast?_cons] using htail
    · have htail := runGives_succ (step_of_data_seeking hrun hb hin hst) (ih hrun hst hbuf rfl)
      simpa [streamOutputs, cutAtSync_of_ne hb] using htail

/-! ### The scans of a stream (R178, R180) -/

theorem closing_scan (rom : Memory) (C : List Byte) :
    (closing rom C).scan =
      if 15 ≤ C.length ∧ Accepted rom C then some (scanView (decodedView C)) else none := by
  split_ifs with h
  · rw [closing_of_accepted h.1 h.2]
    rfl
  · exact closing_scan_eq_none h

theorem published_cons (o : Output) (os : List Output) :
    published (o :: os) = o.scan.toList ++ published os := by
  cases h : o.scan <;> simp [published, h]

theorem published_append (os ps : List Output) : published (os ++ ps) = published os ++ published ps :=
  List.filterMap_append

/-- R92, R93: outputs that carry a label alone publish nothing. -/
theorem published_map_label (f : Byte → Label) (bs : List Byte) :
    published (bs.map fun b => { label := some (f b) }) = [] := by
  simp [published, List.filterMap_map]

/-- R180: the outputs of the first segment publish what its first output does. -/
theorem published_segmentOutputs_cons (rom : Memory) (first : Output) (C : List Byte) (Cs : List (List Byte)) :
    published (segmentOutputs rom first (C :: Cs)) =
      first.scan.toList ++ published (segmentOutputs rom (closing rom C) Cs) := by
  rw [segmentOutputs, List.cons_append, published_cons, published_append, published_map_label, List.nil_append]

/-- R180: what the segments publish is what their first output publishes, and then the scan of each segment but the
last, which nothing closes. -/
theorem published_segmentOutputs (rom : Memory) (first : Output) (C : List Byte) (Cs : List (List Byte)) :
    published (segmentOutputs rom first (C :: Cs)) =
      first.scan.toList ++ (C :: Cs).dropLast.filterMap fun C => (closing rom C).scan := by
  induction Cs generalizing first C with
  | nil => rw [published_segmentOutputs_cons]; rfl
  | cons D Ds ih =>
    rw [published_segmentOutputs_cons, ih, List.dropLast_cons_of_ne_nil (List.cons_ne_nil D Ds)]
    cases h : (closing rom C).scan <;> simp [h]

theorem published_streamOutputs (rom : Memory) (W : List Byte) :
    published (streamOutputs rom W) = streamScans rom W := by
  rw [streamOutputs, published_append, published_map_label, List.nil_append, streamScans]
  simp only [← closing_scan]
  cases (cutAtSync W).2 with
  | nil => rfl
  | cons C Cs => exact published_segmentOutputs rom _ C Cs

/-- Settles O56: the run skips to the first sync byte and then appends and closes. -/
theorem runOverAByteStringIsTheCutAtItsSyncBytes : Obligations.RunOverAByteStringIsTheCutAtItsSyncBytes := by
  intro s W rest hrun hst hbuf hin
  obtain ⟨hout, hafter⟩ := run_of_seeking W hrun hst hbuf hin
  rw [hout]
  exact ⟨rfl, published_streamOutputs s.rom W, hafter⟩

/-! ### A transmitted frame (R159, R199) -/

theorem frameBytes_getLast? (f : RawFrame) : (frameBytes f).getLast? = some f.crc := by
  rw [frameBytes, List.getLast?_append]
  rfl

/-- R159: what closing the bytes of a frame with points and the right CRC publishes. -/
theorem closing_frameBytes {rom : Memory} {f : RawFrame} (hbody : 4 ≤ f.body.length)
    (hcrc : f.crc = crc8 rom (frameBytes f).dropLast) :
    closing rom (frameBytes f) = publication (frameView f) (scanView (frameView f)) := by
  have hlen := frameBytes_length f
  have hacc : Accepted rom (frameBytes f) := ⟨by omega, by rw [frameBytes_getLast?, hcrc]⟩
  rw [closing_of_accepted (by omega) hacc, decodedView_frameBytes]

/-- R91 to R95: whatever is buffered, the sync byte restarts the buffer, the bytes of `P` are appended, and the
next sync byte closes them. -/
theorem outputs_getLast?_of_segment {P : List Byte} {rest : List Stimulus} (hrun : s.halted = false)
    (hP : ∀ b ∈ P, b ≠ Config.syncByte)
    (hin : s.input = byteEvents (Config.syncByte :: (P ++ [Config.syncByte])) ++ rest) :
    (outputs (P.length + 2) s).getLast? = some (closing s.rom (Config.syncByte :: P)) := by
  obtain ⟨hout, -⟩ := runGives_succ (step_of_sync hrun hin)
    (run_of_accumulating (P ++ [Config.syncByte]) hrun rfl rfl)
  have hn : (P ++ [Config.syncByte]).length + 1 = P.length + 2 := by simp
  rw [← hn, hout, cutAtSync_concat_sync hP]
  simp [segmentOutputs, List.getLast?_cons]

/-- Settles O57: the frame is the segment between its own sync byte and the one behind it. -/
theorem aTransmittedFrameIsPublished : Obligations.ATransmittedFrameIsPublished := by
  intro s f rest hrun hheader hbody hinner hcrc hin
  have hframe : frameBytes f = Config.syncByte :: (frameBytes f).tail :=
    congrArg (· :: (frameBytes f).tail) hheader
  have hlen : f.body.length + 12 = (frameBytes f).tail.length + 2 := by
    rw [List.length_tail, frameBytes_length]
    omega
  rw [hframe, List.cons_append] at hin
  rw [hlen, outputs_getLast?_of_segment hrun hinner hin, ← hframe, closing_frameBytes hbody hcrc]

end Sys2Proof.Machine
end

section
/-! PROOFS. Refusals (R33, R125, R145, R171): a row outside its state condition, a candidate too short, no points, a
transient without a value, and O22, O29, O30 and O39. -/

namespace Sys2Proof.Machine

variable {d : Datapath} {s : State}

/-! ### An EVENT row outside its state condition (R171) -/

/-- Settles O22: each of the nine rows is an `eventStep`, whatever its body. -/
theorem eventRowsRefuseOutsideTheirCondition : Obligations.EventRowsRefuseOutsideTheirCondition := by
  intro s i hi hadm
  rcases hi with rfl | rfl | rfl | rfl | rfl | rfl | rfl | ⟨b, rfl⟩ | ⟨b, rfl⟩
  · rw [exec, execHalted, eventStep_of_not_admits hadm]
  · rw [exec, execStop, eventStep_of_not_admits hadm]
  · rw [exec, execEos, eventStep_of_not_admits hadm]
  · rw [exec, execIdle, eventStep_of_not_admits hadm]
  · rw [exec, execSyncStart, eventStep_of_not_admits hadm]
  · rw [exec, execSyncEmit, eventStep_of_not_admits hadm]
  · rw [exec, execSyncDiscard, eventStep_of_not_admits hadm]
  · rw [exec, execDataSkip, eventStep_of_not_admits hadm]
  · rw [exec, execDataAppend, eventStep_of_not_admits hadm]

/-! ### The rows that read the candidate (R125, R33) -/

/-- R125: DECODE and its FIELD rows read the candidate before anything else, so a read of it that errors is the
row's refusal. -/
theorem exec_decodeRow_refused {e : Refusal} {i : Instr}
    (hread : ∀ {α : Type} (read : List Byte → Option α), readCandidate read s.dp = .error e)
    (hi : i = .decode ∨ i = .decodeHeader ∨ i = .decodeVerlen ∨ i = .decodeSpeed ∨ i = .decodeStartAngle ∨
      i = .decodeEndAngle ∨ i = .decodeTimestamp ∨ i = .decodeCrc ∨ i = .decodePoints) :
    exec i s = .refused e := by
  have hheader : headerOp s.dp = .error e := by rw [headerOp, hread]; rfl
  rcases hi with rfl | rfl | rfl | rfl | rfl | rfl | rfl | rfl | rfl
  · exact onDatapath_error (by rw [decodeOp, hheader]; rfl)
  · exact onDatapath_error hheader
  · exact onDatapath_error (by rw [verlenOp, hread]; rfl)
  · exact onDatapath_error (by rw [speedOp, hread]; rfl)
  · exact onDatapath_error (by rw [startAngleOp, hread]; rfl)
  · exact onDatapath_error (by rw [endAngleOp, hread]; rfl)
  · exact onDatapath_error (by rw [timestampOp, hread]; rfl)
  · exact onDatapath_error (by rw [crcOp, hread]; rfl)
  · exact onDatapath_error (by rw [pointsOp, hread]; rfl)

/-- Settles O29: every read of a short candidate errors. -/
theorem decodeRefusesFewerThan14Bytes : Obligations.DecodeRefusesFewerThan14Bytes :=
  fun _ _ hc hl _ hi => exec_decodeRow_refused (fun _ => readCandidate_short hc hl) hi

theorem exec_validate_refused (hc : s.dp.cand = none) : exec .validate s = .refused .transientNoValue :=
  onDatapath_error (by rw [validateOp, hc]; rfl)

/-- R33, R174: EMPTYGUARD reads the points and the candidate. -/
theorem exec_emptyGuard_refused (h : s.dp.points = none ∨ s.dp.cand = none) :
    exec .emptyGuard s = .refused .transientNoValue := by
  rw [exec, execEmptyGuard, runEmptyGuard]
  cases hp : s.dp.points with
  | none => rfl
  | some ps =>
    rw [h.resolve_left (by simp [hp])]
    rfl

/-! ### The rows of ASSEMBLE (R33, R145) -/

theorem angleMinOp_refused (hs : d.startAngle = none) : angleMinOp d = .error .transientNoValue := by
  rw [angleMinOp, hs]
  rfl

theorem angleMaxOp_refused (he : d.endAngle = none) : angleMaxOp d = .error .transientNoValue := by
  rw [angleMaxOp, he]
  rfl

theorem wrapOp_refused (h : d.startAngle = none ∨ d.endAngle = none) : wrapOp d = .error .transientNoValue := by
  rw [wrapOp]
  cases hs : d.startAngle with
  | none => rfl
  | some s =>
    rw [h.resolve_left (by simp [hs])]
    rfl

/-- R149: the angle, the adjusted end angle and the points are read in this order, before the points are counted. -/
theorem angleIncrementOp_refused (h : d.startAngle = none ∨ d.endAdj = none ∨ d.points = none) :
    angleIncrementOp d = .error .transientNoValue := by
  rw [angleIncrementOp]
  cases hs : d.startAngle with
  | none => rfl
  | some s =>
    have h := h.resolve_left (by simp [hs])
    cases ha : d.endAdj with
    | none => rfl
    | some adj =>
      rw [h.resolve_left (by simp [ha])]
      rfl

/-- U1, R149: the increment of no points. -/
theorem angleIncrementOp_empty (hp : d.points = some []) (hs : d.startAngle ≠ none) (ha : d.endAdj ≠ none) :
    angleIncrementOp d = .error .assembleEmpty := by
  obtain ⟨s, hs⟩ := Option.ne_none_iff_exists'.1 hs
  obtain ⟨adj, ha⟩ := Option.ne_none_iff_exists'.1 ha
  rw [angleIncrementOp, hs, ha, hp]
  rfl

/-- R145: ASSEMBLE of points without one of the angles: the angle rows are the first that read them. -/
theorem assembleOp_refused (h : d.startAngle = none ∨ d.endAngle = none) (hne : d.points ≠ some []) :
    assembleOp d = .error .transientNoValue := by
  cases hp : d.points with
  | none =>
    rw [assembleOp, hp]
    rfl
  | some ps =>
    have hlen : ps.length ≠ 0 := fun h0 => hne (by rw [hp, List.length_eq_zero_iff.1 h0])
    rw [assembleOp, hp]
    refine (if_neg hlen).trans ?_
    cases hs : d.startAngle with
    | none =>
      rw [angleMinOp_refused hs]
      rfl
    | some s =>
      obtain ⟨d', hmin, he⟩ : ∃ d', angleMinOp d = .ok d' ∧ d'.endAngle = none :=
        ⟨_, angleMinOp_ok hs, h.resolve_left (by simp [hs])⟩
      rw [hmin]
      simp only [bind, Except.bind, angleMaxOp_refused he]

/-- Settles O39: the length of the points is tested after the other registers are read, and the bounds of no ranges
are not defined. -/
theorem outputRowsRefuseNoPoints : Obligations.OutputRowsRefuseNoPoints := by
  refine fun t => ⟨fun hp hs ha => onDatapath_error (angleIncrementOp_empty hp hs ha), fun hr => ⟨?min, ?max⟩⟩
  case min => exact onDatapath_error (by rw [rangeMinOp, hr]; rfl)
  case max => exact onDatapath_error (by rw [rangeMaxOp, hr]; rfl)

/-! ### PUBLISH (R33, R173) -/

/-- R33: a read of registers answers a value, or refuses because one of them holds none. -/
def ReadsRegisters {α : Type} (r : Except Refusal α) : Prop :=
  (∃ v, r = .ok v) ∨ r = .error .transientNoValue

theorem readsRegisters_need {α : Type} (r : Option α) : ReadsRegisters (need r) := by
  cases r with
  | none => exact .inr rfl
  | some v => exact .inl ⟨v, rfl⟩

theorem readsRegisters_bind {α β : Type} {r : Except Refusal α} {f : α → Except Refusal β}
    (hr : ReadsRegisters r) (hf : ∀ v, ReadsRegisters (f v)) : ReadsRegisters (r >>= f) := by
  rcases hr with ⟨v, rfl⟩ | rfl
  · exact hf v
  · exact .inr rfl

/-- A register is read, and then the others. -/
theorem readsRegisters_need_bind {α β : Type} {r : Option α} {f : α → Except Refusal β}
    (hf : ∀ v, ReadsRegisters (f v)) : ReadsRegisters (need r >>= f) :=
  readsRegisters_bind (readsRegisters_need r) hf

theorem readsRegisters_decoded (d : Datapath) : ReadsRegisters d.decoded := by
  unfold Datapath.decoded
  iterate 8 refine readsRegisters_need_bind fun _ => ?_
  exact .inl ⟨_, rfl⟩

theorem readsRegisters_normalized (d : Datapath) : ReadsRegisters d.normalized := by
  unfold Datapath.normalized
  iterate 7 refine readsRegisters_need_bind fun _ => ?_
  exact .inl ⟨_, rfl⟩

/-- R33, R173: PUBLISH is refused unless both of its records can be read. -/
theorem exec_publish_refused (h : ∀ F S, ¬ (s.dp.decoded = .ok F ∧ s.dp.normalized = .ok S)) :
    exec .publish s = .refused .transientNoValue := by
  rw [exec, execPublish, runPublish]
  rcases readsRegisters_decoded s.dp with ⟨F, hF⟩ | hF
  · rcases readsRegisters_normalized s.dp with ⟨S, hS⟩ | hS
    · exact absurd ⟨hF, hS⟩ (h F S)
    · rw [hF, hS]
  · rw [hF]

/-- Settles O30: row by row, the first register read that holds no value; for PUBLISH, none of its records can be
read unless all their registers hold values. -/
theorem rowsRefuseATransientWithoutAValue : Obligations.RowsRefuseATransientWithoutAValue := by
  intro s
  refine ⟨?cand, ?angles, ?points, ?startAngle, ?endAngle, ?endAdj, ?ranges, ?publish⟩
  case cand =>
    intro hc i hi
    by_cases hv : i = .validate
    · rw [hv, exec_validate_refused hc]
    · by_cases hg : i = .emptyGuard
      · rw [hg, exec_emptyGuard_refused (.inr hc)]
      · exact exec_decodeRow_refused (fun _ => readCandidate_none hc) (by simpa [hv, hg] using hi)
  case angles => exact fun h hne => onDatapath_error (assembleOp_refused h hne)
  case points =>
    rintro hp i (rfl | rfl | rfl | rfl | rfl)
    · exact exec_emptyGuard_refused (.inl hp)
    · exact onDatapath_error (by rw [assembleOp, hp]; rfl)
    · exact onDatapath_error (angleIncrementOp_refused (.inr (.inr hp)))
    · exact onDatapath_error (by rw [rangesOp, hp]; rfl)
    · exact onDatapath_error (by rw [intensitiesOp, hp]; rfl)
  case startAngle =>
    rintro hs i (rfl | rfl | rfl)
    · exact onDatapath_error (angleMinOp_refused hs)
    · exact onDatapath_error (wrapOp_refused (.inl hs))
    · exact onDatapath_error (angleIncrementOp_refused (.inl hs))
  case endAngle =>
    rintro he i (rfl | rfl)
    · exact onDatapath_error (angleMaxOp_refused he)
    · exact onDatapath_error (wrapOp_refused (.inr he))
  case endAdj => exact fun ha => onDatapath_error (angleIncrementOp_refused (.inr (.inl ha)))
  case ranges =>
    rintro hr i (rfl | rfl)
    · exact onDatapath_error (by rw [rangeMinOp, hr]; rfl)
    · exact onDatapath_error (by rw [rangeMaxOp, hr]; rfl)
  case publish =>
    intro h
    refine exec_publish_refused fun F S ⟨hF, hS⟩ => ?_
    obtain ⟨h1, h2, h3, h4, h5, h6, h7, h8⟩ := Datapath.decoded_eq_ok.1 hF
    obtain ⟨h9, h10, h11, h12, h13, h14, h15⟩ := Datapath.normalized_eq_ok.1 hS
    simp [h1, h2, h3, h4, h5, h6, h7, h8, h9, h10, h11, h12, h13, h14, h15] at h

end Sys2Proof.Machine
end
